-- ==== Sys2Proof/Word.lean ====
section
/-! DEFINITION. The word types of the block (00_scope.md R7: every value is an unsigned integer of a
stated width). -/

namespace Sys2Proof

/-- `u8`: a byte of the serial stream, of a button field, of an operand. -/
abbrev Byte := BitVec 8

/-- `u16`: a register, a page word, an operand field, a response (00_scope.md R7). -/
abbrev Word := BitVec 16

/-- One operation word, 32 bits (30_encoding.md R90). -/
abbrev OpWord := BitVec 32

end Sys2Proof
end

