-- ==== Sys2Proof/Config.lean ====
section
/-! DEFINITION. The implementation parameters of 00_scope.md R5. -/

namespace Sys2Proof

/-- The parameters whose value changes what an operation does: P1, P3 and P4 of 00_scope.md R5.
"A model takes the parameters below as arguments" (R5), so they stand in the machine's state and no
operation writes them (log entry 5). -/
structure Config where
  /-- P1 `FRAME_LEN`, the bytes of one bulk frame. -/
  frameLen : Nat
  /-- P3 `PAGE_WORDS`, the 16-bit words of one snapshot page. -/
  pageWords : Nat
  /-- P4 `MISMATCH_LIMIT`, the consecutive mismatch that classifies. -/
  mismatchLimit : Nat
  deriving DecidableEq, Repr

/-- "range a model must accept" (00_scope.md R5, P1, P3 and P4). -/
abbrev Config.wf (c : Config) : Prop :=
  (1 ≤ c.frameLen ∧ c.frameLen ≤ 2048) ∧ (1 ≤ c.pageWords ∧ c.pageWords ≤ 256) ∧
    (1 ≤ c.mismatchLimit ∧ c.mismatchLimit ≤ 7)

/-- The values R5 prints: 1063 bytes, 107 words, the 5th mismatch. -/
def Config.standard : Config := { frameLen := 1063, pageWords := 107, mismatchLimit := 5 }

/-- P2 `PAGES`, fixed at 5 (00_scope.md R5). -/
def Config.pages : Nat := 5

/-- P10 `REQ_LEN`, the bytes of a request frame (00_scope.md R5). -/
def Config.reqLen : Nat := 8

/-- P12 `PAGE_STRIDE` of the host-side register map (00_scope.md R5, 20_memory.md R80). -/
def Config.pageStride : Nat := 1000

/-- P9 and P13 of 00_scope.md R5, the two parameters only the host's side reads. Both are OPEN, "a
parameter marked OPEN has no value in any source", so every definition that reads one takes this as an
argument and no value is named for either; no step of the block reads them (log entry 6). -/
structure HostConfig where
  /-- P9 `LOCAL_ADDR`, range `0x00 .. 0xFF` (R5, D40; 93_implementation_defined.md item 17). -/
  localAddr : Byte
  /-- P13 `PAGE1_BASE`, any (R5, D38; 93_implementation_defined.md item 18). -/
  page1Base : Nat
  deriving DecidableEq, Repr

/-- The byte count of a read response whose data is longer than one byte can count: 40_crc.md R126 gives
none, so a function nothing can evaluate, of the number of data bytes (log entry 18, DESIGN CHOICE). -/
opaque Config.longByteCount : Nat → Byte

end Sys2Proof
end

