-- ==== Sys2Proof/Syntax.lean ====
section
/-! DEFINITION. The operations of the block as syntax: ports, agents, operand forms, illegal codes and
the one inductive `Instr`, one constructor per row of spec/opcode_table.json (30_encoding.md R94). -/

namespace Sys2Proof

/-- The two ports, which are also the two classes of opcodes: H and E (30_encoding.md R91). -/
inductive Port where
  | host
  | event
  deriving DecidableEq, Repr

/-- The agents that issue operations (10_state.md R22). -/
inductive Agent where
  | host
  | frameStartPin
  | blockTransfer
  | registerInterface
  | levelSampler
  | settleTimer
  | bulkWatchdog
  | registerWatchdog
  | standbyTimer
  | parser
  deriving DecidableEq, Repr

/-- The operand forms N, B, W, 1, L and PI (30_encoding.md R92). -/
inductive Form where
  | none
  | byte
  | word
  | bit
  | levels
  | pageIndex
  deriving DecidableEq, Repr

/-- The codes of the one exception, `Illegal(code)` (60_exceptions.md R260). -/
inductive IllegalCode where
  | opcode
  | port
  | reserved
  | operand
  | range
  deriving DecidableEq, Repr

/-- The names of the 21 operations (30_encoding.md R94). -/
inductive Op where
  | crcInit
  | crcByte
  | crcRead
  | crcCheck
  | evFrameEdge
  | evSettleExpire
  | evBulkByte
  | evBulkWdtExpire
  | evRegDone
  | evRegWdtExpire
  | evPoll
  | evStbyExpire
  | parse
  | hostReadStatus
  | hostReadCmd
  | hostWriteCmd
  | hostSetLock
  | hostReadPage
  | hostClearUnreadSnap
  | hostReadFlags
  | hostReadDiag
  deriving DecidableEq, Repr

/-- One operation with its operand, as 30_encoding.md R92 names the values: `b` u8, `t` and `w` u16,
`e` u1, `lv` u4, `p` and `i` u8. -/
inductive Instr where
  | crcInit
  | crcByte (b : Byte)
  | crcRead
  | crcCheck (t : Word)
  | evFrameEdge
  | evSettleExpire
  | evBulkByte (b : Byte)
  | evBulkWdtExpire
  | evRegDone (w : Word)
  | evRegWdtExpire
  | evPoll (lv : BitVec 4)
  | evStbyExpire
  | parse
  | hostReadStatus
  | hostReadCmd
  | hostWriteCmd (w : Word)
  | hostSetLock (e : Bool)
  | hostReadPage (p i : Byte)
  | hostClearUnreadSnap
  | hostReadFlags
  | hostReadDiag
  deriving DecidableEq, Repr

/-- The operation's name, its operand left out. -/
def Instr.op : Instr → Op
  | .crcInit => .crcInit
  | .crcByte _ => .crcByte
  | .crcRead => .crcRead
  | .crcCheck _ => .crcCheck
  | .evFrameEdge => .evFrameEdge
  | .evSettleExpire => .evSettleExpire
  | .evBulkByte _ => .evBulkByte
  | .evBulkWdtExpire => .evBulkWdtExpire
  | .evRegDone _ => .evRegDone
  | .evRegWdtExpire => .evRegWdtExpire
  | .evPoll _ => .evPoll
  | .evStbyExpire => .evStbyExpire
  | .parse => .parse
  | .hostReadStatus => .hostReadStatus
  | .hostReadCmd => .hostReadCmd
  | .hostWriteCmd _ => .hostWriteCmd
  | .hostSetLock _ => .hostSetLock
  | .hostReadPage _ _ => .hostReadPage
  | .hostClearUnreadSnap => .hostClearUnreadSnap
  | .hostReadFlags => .hostReadFlags
  | .hostReadDiag => .hostReadDiag

/-- The agent that issues an operation (10_state.md R22). -/
def Op.agent : Op → Agent
  | .crcInit | .crcByte | .crcRead | .crcCheck => .host
  | .evFrameEdge => .frameStartPin
  | .evSettleExpire => .settleTimer
  | .evBulkByte => .blockTransfer
  | .evBulkWdtExpire => .bulkWatchdog
  | .evRegDone => .registerInterface
  | .evRegWdtExpire => .registerWatchdog
  | .evPoll => .levelSampler
  | .evStbyExpire => .standbyTimer
  | .parse => .parser
  | .hostReadStatus | .hostReadCmd | .hostWriteCmd | .hostSetLock | .hostReadPage => .host
  | .hostClearUnreadSnap | .hostReadFlags | .hostReadDiag => .host

/-- The port an agent's words arrive on (30_encoding.md R91). -/
def Agent.port : Agent → Port
  | .host => .host
  | .frameStartPin | .blockTransfer | .registerInterface | .levelSampler | .settleTimer
  | .bulkWatchdog | .registerWatchdog | .standbyTimer | .parser => .event

end Sys2Proof
end

