-- ==== Sys2Proof/WellFormed.lean ====
section
/-! DEFINITION. Which operations are legal terms. Every operand is as wide as its form (30_encoding.md
R92), so the one check that is left is the page range of `HOST_READ_PAGE` (R95). -/

namespace Sys2Proof

/-- "The `PI` operand of `HOST_READ_PAGE` is legal only when `1 <= p <= PAGES` and
`0 <= i < PAGE_WORDS`" (30_encoding.md R95). -/
def pageInRange (c : Config) (p i : Byte) : Bool :=
  decide (1 ≤ p.toNat) && decide (p.toNat ≤ Config.pages) && decide (i.toNat < c.pageWords)

/-- A well-formed operation: its operand is one the encoding allows (30_encoding.md R95). -/
def Instr.wf (c : Config) : Instr → Bool
  | .hostReadPage p i => pageInRange c p i
  | .crcInit | .crcByte _ | .crcRead | .crcCheck _ => true
  | .evFrameEdge | .evSettleExpire | .evBulkByte _ | .evBulkWdtExpire => true
  | .evRegDone _ | .evRegWdtExpire | .evPoll _ | .evStbyExpire | .parse => true
  | .hostReadStatus | .hostReadCmd | .hostWriteCmd _ | .hostSetLock _ => true
  | .hostClearUnreadSnap | .hostReadFlags | .hostReadDiag => true

end Sys2Proof
end

