-- ==== Sys2Proof/Decode.lean ====
section
/-! DEFINITION. The opcode map, the decoder with the five checks of 30_encoding.md R96 in their order,
and the encoder. -/

namespace Sys2Proof

/-- Opcodes, column `OPC` of 30_encoding.md R94. -/
def Op.opc : Op → Byte
  | .crcInit => 0x01
  | .crcByte => 0x02
  | .crcRead => 0x03
  | .crcCheck => 0x04
  | .evFrameEdge => 0x10
  | .evSettleExpire => 0x11
  | .evBulkByte => 0x12
  | .evBulkWdtExpire => 0x13
  | .evRegDone => 0x20
  | .evRegWdtExpire => 0x21
  | .evPoll => 0x30
  | .evStbyExpire => 0x31
  | .parse => 0x40
  | .hostReadStatus => 0x50
  | .hostReadCmd => 0x51
  | .hostWriteCmd => 0x52
  | .hostSetLock => 0x53
  | .hostReadPage => 0x54
  | .hostClearUnreadSnap => 0x55
  | .hostReadFlags => 0x56
  | .hostReadDiag => 0x57

/-- The port class, column `class` of 30_encoding.md R94. -/
def Op.port : Op → Port
  | .crcInit | .crcByte | .crcRead | .crcCheck => .host
  | .evFrameEdge | .evSettleExpire | .evBulkByte | .evBulkWdtExpire => .event
  | .evRegDone | .evRegWdtExpire | .evPoll | .evStbyExpire | .parse => .event
  | .hostReadStatus | .hostReadCmd | .hostWriteCmd | .hostSetLock | .hostReadPage => .host
  | .hostClearUnreadSnap | .hostReadFlags | .hostReadDiag => .host

/-- The operand form, column `form` of 30_encoding.md R94. -/
def Op.form : Op → Form
  | .crcByte | .evBulkByte => .byte
  | .crcCheck | .evRegDone | .hostWriteCmd => .word
  | .evPoll => .levels
  | .hostSetLock => .bit
  | .hostReadPage => .pageIndex
  | .crcInit | .crcRead | .evFrameEdge | .evSettleExpire | .evBulkWdtExpire => .none
  | .evRegWdtExpire | .evStbyExpire | .parse | .hostReadStatus | .hostReadCmd => .none
  | .hostClearUnreadSnap | .hostReadFlags | .hostReadDiag => .none

/-- The 21 rows of the opcode map in its order (30_encoding.md R94). -/
def Op.all : List Op :=
  [.crcInit, .crcByte, .crcRead, .crcCheck, .evFrameEdge, .evSettleExpire, .evBulkByte,
    .evBulkWdtExpire, .evRegDone, .evRegWdtExpire, .evPoll, .evStbyExpire, .parse,
    .hostReadStatus, .hostReadCmd, .hostWriteCmd, .hostSetLock, .hostReadPage,
    .hostClearUnreadSnap, .hostReadFlags, .hostReadDiag]

/-- The row an opcode is assigned to; every other opcode is reserved (30_encoding.md R97). -/
def opOfOpcode (opc : Byte) : Option Op := Op.all.find? (fun o => o.opc == opc)

/-- The must-be-zero bits of `OPND` for a form (30_encoding.md R92). -/
def Form.mustBeZero : Form → Word
  | .none => 0xFFFF
  | .byte => 0xFF00
  | .word => 0x0000
  | .bit => 0xFFFE
  | .levels => 0xFFF0
  | .pageIndex => 0x0000

/-- Field `OPC`, bits 31:24 (30_encoding.md R90). -/
def wordOpc (w : OpWord) : Byte := w.extractLsb' 24 8

/-- Field `RSV`, bits 23:16 (30_encoding.md R90). -/
def wordRsv (w : OpWord) : Byte := w.extractLsb' 16 8

/-- Field `OPND`, bits 15:0 (30_encoding.md R90). -/
def wordOpnd (w : OpWord) : Word := w.extractLsb' 0 16

/-- The operation a row and an operand field stand for, the value bits of the row's form taken as
30_encoding.md R92 takes them. -/
def instrOf (o : Op) (d : Word) : Instr :=
  match o with
  | .crcInit => .crcInit
  | .crcByte => .crcByte (d.extractLsb' 0 8)
  | .crcRead => .crcRead
  | .crcCheck => .crcCheck d
  | .evFrameEdge => .evFrameEdge
  | .evSettleExpire => .evSettleExpire
  | .evBulkByte => .evBulkByte (d.extractLsb' 0 8)
  | .evBulkWdtExpire => .evBulkWdtExpire
  | .evRegDone => .evRegDone d
  | .evRegWdtExpire => .evRegWdtExpire
  | .evPoll => .evPoll (d.extractLsb' 0 4)
  | .evStbyExpire => .evStbyExpire
  | .parse => .parse
  | .hostReadStatus => .hostReadStatus
  | .hostReadCmd => .hostReadCmd
  | .hostWriteCmd => .hostWriteCmd d
  | .hostSetLock => .hostSetLock (d.getLsbD 0)
  | .hostReadPage => .hostReadPage (d.extractLsb' 8 8) (d.extractLsb' 0 8)
  | .hostClearUnreadSnap => .hostClearUnreadSnap
  | .hostReadFlags => .hostReadFlags
  | .hostReadDiag => .hostReadDiag

/-- The decoder: a word that arrives on a port is an operation, or illegal with the code of the FIRST
check of 30_encoding.md R96 that fails (opcode, port, `RSV`, must-be-zero bits, page range). -/
def decode (c : Config) (p : Port) (w : OpWord) : Except IllegalCode Instr :=
  match opOfOpcode (wordOpc w) with
  | none => .error .opcode
  | some o =>
    if o.port ≠ p then .error .port
    else if wordRsv w ≠ 0 then .error .reserved
    else if wordOpnd w &&& o.form.mustBeZero ≠ 0 then .error .operand
    else if (instrOf o (wordOpnd w)).wf c then .ok (instrOf o (wordOpnd w))
    else .error .range

/-- The port a well-behaved source sends a word on: its opcode's class. An unassigned opcode is
illegal on either port, and the host's is taken (log entry 15). -/
def classPort (w : OpWord) : Port :=
  match opOfOpcode (wordOpc w) with
  | some o => o.port
  | none => .host

/-- The value of `OPND` an operation is written with (30_encoding.md R92, R93: zero-extended). -/
def Instr.operand : Instr → Word
  | .crcByte b => b.setWidth 16
  | .crcCheck t => t
  | .evBulkByte b => b.setWidth 16
  | .evRegDone w => w
  | .evPoll lv => lv.setWidth 16
  | .hostWriteCmd w => w
  | .hostSetLock e => if e then 1 else 0
  | .hostReadPage p i => (p.setWidth 16 <<< 8) ||| i.setWidth 16
  | .crcInit | .crcRead | .evFrameEdge | .evSettleExpire | .evBulkWdtExpire => 0
  | .evRegWdtExpire | .evStbyExpire | .parse | .hostReadStatus | .hostReadCmd => 0
  | .hostClearUnreadSnap | .hostReadFlags | .hostReadDiag => 0

/-- The operation word `OPC, RSV = 0x00, OPND` (30_encoding.md R90). -/
def encode (i : Instr) : OpWord := (i.op.opc.setWidth 32 <<< 24) ||| i.operand.setWidth 32

/-- `match = OPC << 24` of a row (30_encoding.md R94). -/
def Op.matchBits (o : Op) : OpWord := o.opc.setWidth 32 <<< 24

/-- `mask = 0xFF000000 | 0x00FF0000 | (must-be-zero bits of the form)` (30_encoding.md R94). -/
def Op.maskBits (o : Op) : OpWord :=
  0xFF000000 ||| 0x00FF0000 ||| o.form.mustBeZero.setWidth 32

/-- "When an operation word is written as bytes, it is big-endian (`OPC` first)" (30_encoding.md R90). -/
def wordBytes (w : OpWord) : List Byte :=
  [w.extractLsb' 24 8, w.extractLsb' 16 8, w.extractLsb' 8 8, w.extractLsb' 0 8]

/-- The word four bytes stand for, the first one in bits 31:24 (30_encoding.md R90). -/
def wordOfBytes (b0 b1 b2 b3 : Byte) : OpWord :=
  (b0.setWidth 32 <<< 24) ||| (b1.setWidth 32 <<< 16) ||| (b2.setWidth 32 <<< 8) ||| b3.setWidth 32

/-- Why a run of bytes gives no operation: fewer than the 4 bytes every word has (30_encoding.md R90),
or a word that is illegal. Both leave the machine unchanged (safe). -/
inductive ByteReject where
  | tooShort
  | illegal (code : IllegalCode)
  deriving DecidableEq, Repr

/-- One operation read from the front of a run of bytes, with the bytes that are left: "A decoder
always takes exactly one word" (30_encoding.md R90). Total on any bytes. -/
def decodeBytes (c : Config) (p : Port) : List Byte → Except ByteReject (Instr × List Byte)
  | b0 :: b1 :: b2 :: b3 :: rest =>
    match decode c p (wordOfBytes b0 b1 b2 b3) with
    | .ok i => .ok (i, rest)
    | .error e => .error (.illegal e)
  | _ => .error .tooShort

/-- The host's question about one row: the word of `nbits` bits, bits above it 0, on the port of its
class, at the parameters of `Config.standard`. -/
def decodeTableWord (nbits w : Nat) : Option Instr :=
  if w % 2 ^ nbits < 2 ^ 32 then
    let v : OpWord := BitVec.ofNat 32 (w % 2 ^ nbits)
    (decode Config.standard (classPort v) v).toOption
  else none

end Sys2Proof
end

