-- ==== Sys2Proof/Machine/State.lean ====
section
/-! DEFINITION. The state of the machine as plain data: every element of 10_state.md, and the model's
own fields (parameters, input queue, reset level, report of the last input). -/

namespace Sys2Proof.Machine

/-- `BULK_ST` (10_state.md R36). -/
inductive BulkState where
  | idle
  | sync
  | settle
  | xfer
  deriving DecidableEq, Repr

/-- A half of the double buffer: the index 0 or 1 that `BULK_ACT` holds (10_state.md R36). -/
inductive Half where
  | zero
  | one
  deriving DecidableEq, Repr

/-- A memory whose elements are `w` bits wide and are named by an index (20_memory.md R60), as a sparse
list of index and element: indexes strictly rising, no element listed that is 0, which is what an
unlisted element reads as (10_state.md R47; log entry 9). -/
abbrev Memory (w : Nat) := List (Nat × BitVec w)

/-- Everything the spec gives the block, with the spec's names (10_state.md R23 to R44). -/
structure Block where
  /-- `STATUS`, the Input Status Word (R23). -/
  status : Word
  /-- `CMD`, the Command Word (R33). -/
  cmd : Word
  /-- `CRC`, the running remainder (R42). -/
  crc : Word
  /-- `CAPTURE_PENDING` (R34). -/
  capturePending : Bool
  /-- `SNAPSHOT_LOCKED` (R34). -/
  snapshotLocked : Bool
  /-- `UNREAD_STATUS` (R34, R35). -/
  unreadStatus : Bool
  /-- `UNREAD_SNAPSHOT` (R34). -/
  unreadSnapshot : Bool
  /-- `CAPTURING` (R41). -/
  capturing : Bool
  /-- `BULK_ST` (R36). -/
  bulkSt : BulkState
  /-- `BULK_ACT` (R36). -/
  bulkAct : Half
  /-- `BULK_POS` (R37). -/
  bulkPos : BitVec 11
  /-- `MM_CNT` (R38). -/
  mmCnt : BitVec 3
  /-- `LAST_LVL` (R39). -/
  lastLvl : BitVec 4
  /-- `SETTLE_ARMED` (R40). -/
  settleArmed : Bool
  /-- `BULK_WDT_ARMED` (R40). -/
  bulkWdtArmed : Bool
  /-- `REG_WDT_ARMED` (R40). -/
  regWdtArmed : Bool
  /-- `STBY_ARMED` (R40). -/
  stbyArmed : Bool
  /-- `RXBUF[0]`, index `j` in `0 .. FRAME_LEN-1` (R44, 20_memory.md R60, R61). -/
  rx0 : List Host.Cell
  /-- `RXBUF[1]`, index `j` in `0 .. FRAME_LEN-1` (R44, 20_memory.md R60, R61). -/
  rx1 : List Host.Cell
  /-- `CAPBUF`, index `j` in `0 .. FRAME_LEN-1` (R44, 20_memory.md R60, R62). -/
  cap : List Host.Cell
  /-- `PAGE`, index `(p, i)` held as `256 * p + i` (R44, 20_memory.md R60, R63; log entry 9). -/
  page : Memory 16
  deriving DecidableEq, Repr

/-- One input that has arrived: an operation word on a port (30_encoding.md R90, R91), or an edge of
the reset input (70_reset_and_hazards.md R290). -/
inductive Input where
  | op (port : Port) (word : OpWord)
  | reset (asserted : Bool)
  deriving DecidableEq, Repr

/-- The four outcomes of an operation (00_scope.md R8). -/
inductive OpResult where
  | accepted
  | drop
  | notEnabled
  | illegal (code : IllegalCode)
  deriving DecidableEq, Repr

/-- What the operation taken last ended in, and the 16-bit response the host got, if any
(30_encoding.md R98). -/
structure Report where
  result : OpResult
  response : Option Word
  deriving DecidableEq, Repr

/-- The machine: the block, and around it the model's own fields. -/
structure State where
  /-- The parameters (00_scope.md R5); no operation writes them (log entry 5). -/
  cfg : Config
  /-- All the spec's state. -/
  block : Block
  /-- Inputs that have arrived and are not taken, oldest first (log entry 1). -/
  inputs : List Input
  /-- The reset input is asserted (70_reset_and_hazards.md R290; log entry 7). -/
  inReset : Bool
  /-- Outcome and response of the input taken last; none where that input was no operation the block
  saw (log entry 4). -/
  report : Option Report
  deriving DecidableEq, Repr

/-- Why the machine stops with a fault. -/
inductive Fault where
  /-- `EV_BULK_BYTE` at a `BULK_POS` that is outside the receive buffer, an element that 20_memory.md
  R60 says does not exist. By 10_state.md R37 no reachable state shows it. Safe (log entry 8). -/
  | rxIndexOutOfRange
  deriving DecidableEq, Repr

/-- Why an operation has no transition. -/
inductive Refusal where
  /-- Raised by an arm of `exec` whose operation has no meaning yet. Safe. -/
  | notModelled (mnemonic : String)
  /-- The outcome `not_enabled` of 00_scope.md R8: an expiry of a timer that is not armed, or `PARSE`
  without a pending frame or under the lock. "A model has no transition for it." Raised by the meanings
  of the four expiry events and of `PARSE`. `step` reports it and goes on (log entry 3). Safe. -/
  | notEnabled (op : Op)
  deriving DecidableEq, Repr

/-- The reset value of every element (10_state.md R47): all zero but `CRC`. -/
def Block.reset : Block :=
  { status := 0x0000, cmd := 0x0000, crc := 0xFFFF
    capturePending := false, snapshotLocked := false, unreadStatus := false, unreadSnapshot := false
    capturing := false, bulkSt := .idle, bulkAct := .zero, bulkPos := 0, mmCnt := 0, lastLvl := 0b0000
    settleArmed := false, bulkWdtArmed := false, regWdtArmed := false, stbyArmed := false
    rx0 := [], rx1 := [], cap := [], page := [] }

/-- The machine right after reset, for any parameters: nothing has arrived, the reset input is
released (log entries 1, 4 and 7). -/
def State.resetWith (c : Config) : State :=
  { cfg := c, block := Block.reset, inputs := [], inReset := false, report := none }

/-- The machine right after reset, with the parameters 00_scope.md R5 prints (log entry 5). -/
def State.reset : State := State.resetWith Config.standard

end Sys2Proof.Machine
end

