-- ==== Sys2Proof/Machine/Ops.lean ====
section
/-! DEFINITION. The shared operations over memories and over the machine: reading and writing elements,
ending an operation (accept, respond, drop, not enabled, illegal), and reset. -/

namespace Sys2Proof.Machine

/-! ## Memories (20_memory.md R60 to R63) -/

/-- The element at an index; an element that is not listed reads 0 (10_state.md R47). -/
def Memory.read {w : Nat} : Memory w → Nat → BitVec w
  | [], _ => 0
  | (a, v) :: rest, k => if a = k then v else Memory.read rest k

/-- The list without the element at an index. -/
def Memory.erase {w : Nat} : Memory w → Nat → Memory w
  | [], _ => []
  | (a, v) :: rest, k => if a = k then rest else (a, v) :: Memory.erase rest k

/-- The list with an element put at its place, indexes rising. -/
def Memory.insert {w : Nat} : Memory w → Nat → BitVec w → Memory w
  | [], k, x => [(k, x)]
  | (a, v) :: rest, k, x =>
    if k < a then (k, x) :: (a, v) :: rest
    else if a = k then (k, x) :: rest
    else (a, v) :: Memory.insert rest k x

/-- `Mem[k] <- x` in canonical form: writing 0, what an unlisted element reads as, takes the element
out of the list. -/
def Memory.write {w : Nat} (m : Memory w) (k : Nat) (x : BitVec w) : Memory w :=
  if x = 0 then Memory.erase m k else Memory.insert m k x

/-- `for k in ks: Mem[k] <- f(k)`, in the order of the list. -/
def Memory.writeAll {w : Nat} (f : Nat → BitVec w) : List Nat → Memory w → Memory w
  | [], m => m
  | k :: ks, m => Memory.writeAll f ks (Memory.write m k (f k))

/-- The canonical form: indexes strictly rising, no listed element 0. -/
def Memory.wf {w : Nat} : Memory w → Bool
  | [] => true
  | (a, v) :: rest => decide (v ≠ 0) && rest.all (fun x => decide (a < x.1)) && Memory.wf rest

/-- Every listed index satisfies a bound: what the size of the space allows (20_memory.md R60). -/
def Memory.within {w : Nat} (ok : Nat → Bool) (m : Memory w) : Bool := m.all (fun x => ok x.1)

/-- The index `(p, i)` of the space `PG` as one number (20_memory.md R60; log entry 9). -/
def pageKey (p i : Nat) : Nat := 256 * p + i

/-- The indexes of the space `PG`: `p` in `1 .. PAGES`, `i` in `0 .. PAGE_WORDS-1` (20_memory.md R60). -/
def pageKeyOk (c : Config) (k : Nat) : Bool :=
  decide (1 ≤ k / 256) && decide (k / 256 ≤ Config.pages) && decide (k % 256 < c.pageWords)

/-- `PAGE[p][i]` (20_memory.md R60). -/
def Block.pageWordAt (b : Block) (p i : Nat) : Word := Memory.read b.page (pageKey p i)

/-! ## The double buffer (20_memory.md R61) -/

/-- `1 - a`. -/
def Half.other : Half → Half
  | .zero => .one
  | .one => .zero

/-- `RXBUF[a]`. -/
def Block.rx (b : Block) : Half → List Host.Cell
  | .zero => b.rx0
  | .one => b.rx1

/-- The block with `RXBUF[a]` replaced. -/
def Block.setRx (b : Block) (a : Half) (m : List Host.Cell) : Block :=
  match a with
  | .zero => { b with rx0 := m }
  | .one => { b with rx1 := m }

/-! ## Ends of an operation (00_scope.md R8, 30_encoding.md R98) -/

/-- `UNREAD_STATUS` at the end of an accepted event: set when `STATUS` changed (10_state.md R35). -/
def noteStatusChange (before after : Block) : Block :=
  { after with unreadStatus := after.unreadStatus || decide (after.status ≠ before.status) }

/-- An accepted event: its writes take effect, R35 follows, no agent gets a response. -/
def State.accept (s : State) (b : Block) : Host.Outcome State Fault Refusal :=
  .next { s with block := noteStatusChange s.block b, report := some ⟨.accepted, none⟩ }

/-- An accepted host operation: its writes take effect and it responds `v`. -/
def State.respond (s : State) (b : Block) (v : Word) : Host.Outcome State Fault Refusal :=
  .next { s with block := b, report := some ⟨.accepted, some v⟩ }

/-- `drop`: a physical event while its unit is disabled. "The state is unchanged. The event is
consumed." (00_scope.md R8) -/
def State.drop (s : State) : Host.Outcome State Fault Refusal :=
  .next { s with report := some ⟨.drop, none⟩ }

/-- `not_enabled`: "A model has no transition for it" (00_scope.md R8). -/
def notEnabled (o : Op) : Host.Outcome State Fault Refusal := .refused (.notEnabled o)

/-- The number of an illegal code (60_exceptions.md R260). -/
def illegalNumber : IllegalCode → Word
  | .opcode => 1
  | .port => 2
  | .reserved => 3
  | .operand => 4
  | .range => 5

/-- Taking the exception `Illegal(code)` (60_exceptions.md R260, R267): no element of the block changes;
a word from the host port responds with the code, a word from the event port responds to no agent
(log entry 10). There is no handler and no return (R267, R268). -/
def State.illegal (s : State) (p : Port) (e : IllegalCode) : Host.Outcome State Fault Refusal :=
  .next { s with
    report := some ⟨.illegal e, match p with | .host => some (illegalNumber e) | .event => none⟩ }

/-! ## Reset (70_reset_and_hazards.md R290) -/

/-- An edge of the reset input: while it is asserted every element has its reset value. -/
def State.resetEdge (s : State) (asserted : Bool) : Host.Outcome State Fault Refusal :=
  .next { s with
    block := if asserted then Block.reset else s.block, inReset := asserted, report := none }

/-- "Operations that arrive while reset is asserted are lost." -/
def State.lose (s : State) : Host.Outcome State Fault Refusal := .next { s with report := none }

/-- What the port does with an operation's end: an operation that was not enabled had no transition, so
the block stays as it is and the outcome is reported (00_scope.md R8, 30_encoding.md R98; log
entry 3). Every other end stands. -/
def settleOutcome (s : State) (o : Host.Outcome State Fault Refusal) :
    Host.Outcome State Fault Refusal :=
  match o with
  | .refused (.notEnabled _) => .next { s with report := some ⟨.notEnabled, none⟩ }
  | .refused r => .refused r
  | .fault f => .fault f
  | .next t => .next t

end Sys2Proof.Machine
end

