-- ==== Sys2Proof/Machine/Operands.lean ====
section
/-! DEFINITION. How the operands of 30_encoding.md R92 are read: the levels of form L, the raw register
word of form W, byte pairs, and the two bytes of a value on the wire. -/

namespace Sys2Proof.Machine

/-- Bit 0 of form L: power-present (30_encoding.md R92, 43_detector.md R190). -/
def levelPower (lv : BitVec 4) : Bool := lv.getLsbD 0

/-- Bit 1 of form L: standby indicator. -/
def levelStandby (lv : BitVec 4) : Bool := lv.getLsbD 1

/-- Bit 2 of form L: red display lit. -/
def levelRed (lv : BitVec 4) : Bool := lv.getLsbD 2

/-- Bit 3 of form L: white display lit. -/
def levelWhite (lv : BitVec 4) : Bool := lv.getLsbD 3

/-- `btn = (~w)[7:0]`: the raw word is active-low and bits 15:8 never matter (42_register_capture.md
R172). -/
def buttonByte (w : Word) : Byte := (~~~w).extractLsb' 0 8

/-- `b[2k] | (b[2k+1] << 8)`: the low byte comes first in the stream (20_memory.md R64). -/
def pairWord (lo hi : Byte) : Word := lo.setWidth 16 ||| (hi.setWidth 16 <<< 8)

/-- Bits 7:0. -/
def lowByte (v : Word) : Byte := v.extractLsb' 0 8

/-- Bits 15:8. -/
def highByte (v : Word) : Byte := v.extractLsb' 8 8

/-- "A 16-bit value the host sends on the wire is sent high byte first" (20_memory.md R66). -/
def wireBytes (v : Word) : List Byte := [highByte v, lowByte v]

/-- The CRC trailer is little-endian on the wire (20_memory.md R65, 40_crc.md R119). -/
def trailerBytes (v : Word) : List Byte := [lowByte v, highByte v]

end Sys2Proof.Machine
end

