-- ==== Sys2Proof/Machine/Flags.lean ====
section
/-! DEFINITION. The fields of `STATUS` and `CMD`, the outputs, and the two read views. -/

namespace Sys2Proof.Machine

/-- The eight flag bits of `STATUS` (10_state.md R23). -/
inductive StatusFlag where
  | mp
  | pf
  | pwr
  | stby
  | red
  | white
  | bulkLive
  | regLive
  deriving DecidableEq, Repr

/-- The bit a flag stands at (10_state.md R23, column `bits`). -/
def statusBit : StatusFlag → Nat
  | .mp => 8
  | .pf => 9
  | .pwr => 10
  | .stby => 11
  | .red => 12
  | .white => 13
  | .bulkLive => 14
  | .regLive => 15

/-- `STATUS.F` read. -/
def statusFlag (f : StatusFlag) (w : Word) : Bool := w.getLsbD (statusBit f)

/-- `STATUS.F <- v`: the other fields are unchanged (00_scope.md R7). -/
def setStatusFlag (f : StatusFlag) (v : Bool) (w : Word) : Word :=
  if v then w ||| BitVec.twoPow 16 (statusBit f) else w &&& ~~~ BitVec.twoPow 16 (statusBit f)

/-- `STATUS.F <- STATUS.F ^ 1` where a condition holds (43_detector.md R192). -/
def toggleStatusFlag (f : StatusFlag) (c : Bool) (w : Word) : Word :=
  if c then setStatusFlag f (!statusFlag f w) w else w

/-- Field 7:0 of a word: `STATUS.BTN` and `CMD.BTN_REQ` (10_state.md R23, R33). -/
def buttonField (w : Word) : Byte := w.extractLsb' 0 8

/-- Field 7:0 of a word written, bits 15:8 unchanged. -/
def setButtonField (b : Byte) (w : Word) : Word := (w >>> 8 <<< 8) ||| b.setWidth 16

/-- `CMD.PWR_REQ`, bit 8 (10_state.md R33); no rule of the block reads it. -/
def cmdPwrReq (w : Word) : Bool := w.getLsbD 8

/-- `CMD.HOLD`, bit 9 (10_state.md R33); no rule of the block reads it. -/
def cmdHold (w : Word) : Bool := w.getLsbD 9

/-- A flag of the block's `STATUS`. -/
def Block.flag (b : Block) (f : StatusFlag) : Bool := statusFlag f b.status

/-- `STATUS.BTN` (10_state.md R24). -/
def Block.btn (b : Block) : Byte := buttonField b.status

/-- `CMD.BTN_REQ` (10_state.md R33). -/
def Block.btnReq (b : Block) : Byte := buttonField b.cmd

/-! ## Outputs (10_state.md R45) -/

/-- `DATA_AVAIL = UNREAD_STATUS | UNREAD_SNAPSHOT` (R34, R45; 60_exceptions.md R264). -/
def Block.dataAvail (b : Block) : Bool := b.unreadStatus || b.unreadSnapshot

/-- `EDGE_EN` (R45). -/
def Block.edgeEn (b : Block) : Bool := decide (b.bulkSt = .sync)

/-- `XFER_EN` (R45). -/
def Block.xferEn (b : Block) : Bool := decide (b.bulkSt = .xfer)

/-- `REG_EN` (R45). -/
def Block.regEn (b : Block) : Bool := b.capturing

/-! ## Read views (10_state.md R43) -/

/-- The numbers of the bulk states (10_state.md R36). -/
def bulkStBits : BulkState → BitVec 2
  | .idle => 0
  | .sync => 1
  | .settle => 2
  | .xfer => 3

/-- `BULK_ACT` as a bit. -/
def halfBit : Half → BitVec 1
  | .zero => 0
  | .one => 1

/-- A field placed at a bit of a 16-bit view. -/
def fieldAt (k : Nat) {w : Nat} (v : BitVec w) : Word := v.setWidth 16 <<< k

/-- A one-bit element placed at a bit of a 16-bit view. -/
def bitAt (k : Nat) (b : Bool) : Word := fieldAt k (BitVec.ofBool b)

/-- The `FLAGS` view (10_state.md R43, 45_host.md R237). -/
def flagsView (b : Block) : Word :=
  bitAt 0 b.capturePending ||| bitAt 1 b.snapshotLocked ||| bitAt 2 b.unreadStatus |||
    bitAt 3 b.unreadSnapshot ||| bitAt 4 b.dataAvail ||| bitAt 5 b.capturing |||
    fieldAt 6 (bulkStBits b.bulkSt) ||| bitAt 8 b.settleArmed ||| bitAt 9 b.bulkWdtArmed |||
    bitAt 10 b.regWdtArmed ||| bitAt 11 b.stbyArmed ||| fieldAt 12 b.mmCnt |||
    fieldAt 15 (halfBit b.bulkAct)

/-- The `DIAG` view, bit 15 is 0 (10_state.md R43, 45_host.md R238). -/
def diagView (b : Block) : Word := fieldAt 0 b.bulkPos ||| fieldAt 11 b.lastLvl

end Sys2Proof.Machine
end

