-- ==== Sys2Proof/Machine/Bulk.lean ====
section
/-! DEFINITION. The bulk capture path (41_bulk_capture.md): the meanings of `EV_FRAME_EDGE`,
`EV_SETTLE_EXPIRE`, `EV_BULK_BYTE` and `EV_BULK_WDT_EXPIRE`. -/

namespace Sys2Proof.Machine

/-- `EV_FRAME_EDGE` (41_bulk_capture.md R141): taken in `SYNC` only. -/
def execEvFrameEdge (s : State) : Host.Outcome State Fault Refusal :=
  if s.block.bulkSt = .sync then
    s.accept { s.block with bulkSt := .settle, settleArmed := true }
  else s.drop

/-- `EV_SETTLE_EXPIRE` (41_bulk_capture.md R142): the transfer starts and its watchdog runs. -/
def execEvSettleExpire (s : State) : Host.Outcome State Fault Refusal :=
  if s.block.settleArmed then
    s.accept { s.block with
      settleArmed := false, bulkSt := .xfer, bulkPos := 0, bulkWdtArmed := true }
  else notEnabled .evSettleExpire

/-- `frames_differ(x, y)`: some `j` in `0 .. FRAME_LEN-1` has `x[j] != y[j]` (41_bulk_capture.md R145). -/
def framesDiffer (c : Config) (x y : List Host.Cell) : Bool :=
  (List.range c.frameLen).any (fun j => decide (Memory.read x j ≠ Memory.read y j))

/-- `for j in 0..FRAME_LEN-1: CAPBUF[j] <- x[j]` (41_bulk_capture.md R143). -/
def copyFrame (c : Config) (x cap : List Host.Cell) : List Host.Cell :=
  Memory.writeAll (Memory.read x) (List.range c.frameLen) cap

/-- The block-transfer completion, run on the block after the last byte is stored (41_bulk_capture.md
R143): compare with the other half (R146), copy when the previous frame is consumed, swap, restart. -/
def completeFrame (c : Config) (b : Block) : Block :=
  let copies := framesDiffer c (b.rx b.bulkAct) (b.rx b.bulkAct.other) && !b.capturePending
  { b with
    cap := if copies then copyFrame c (b.rx b.bulkAct) b.cap else b.cap
    capturePending := b.capturePending || copies
    bulkAct := b.bulkAct.other
    bulkPos := 0
    bulkWdtArmed := true
    status := setStatusFlag .bulkLive true b.status }

/-- `RXBUF[BULK_ACT][BULK_POS] <- b` (41_bulk_capture.md R143). -/
def storeBulkByte (v : Byte) (b : Block) : Block :=
  b.setRx b.bulkAct (Memory.write (b.rx b.bulkAct) b.bulkPos.toNat v)

/-- `EV_BULK_BYTE b` (41_bulk_capture.md R143). The first branch of the inner test is the model's: a
position outside the buffer, which no reachable state has (10_state.md R37; log entry 8). -/
def execEvBulkByte (v : Byte) (s : State) : Host.Outcome State Fault Refusal :=
  if s.block.bulkSt ≠ .xfer then s.drop
  else if s.cfg.frameLen ≤ s.block.bulkPos.toNat then .fault .rxIndexOutOfRange
  else if s.block.bulkPos.toNat + 1 < s.cfg.frameLen then
    s.accept { storeBulkByte v s.block with bulkPos := s.block.bulkPos + 1 }
  else s.accept (completeFrame s.cfg (storeBulkByte v s.block))

/-- `EV_BULK_WDT_EXPIRE` (41_bulk_capture.md R144): the transfer is aborted, no data changes. -/
def execEvBulkWdtExpire (s : State) : Host.Outcome State Fault Refusal :=
  if s.block.bulkWdtArmed then
    s.accept { s.block with
      bulkWdtArmed := false, status := setStatusFlag .bulkLive false s.block.status
      bulkSt := .sync, bulkPos := 0 }
  else notEnabled .evBulkWdtExpire

end Sys2Proof.Machine
end

