-- ==== Sys2Proof/Machine/Crc.lean ====
section
/-! DEFINITION. The CRC unit (40_crc.md): table, update, the frame functions, and the meanings of
`CRC_INIT`, `CRC_BYTE`, `CRC_READ` and `CRC_CHECK`. -/

namespace Sys2Proof.Machine

/-- One round of the bit loop: `if c[0] == 1 then (c >> 1) ^ 0xA001 else c >> 1` (40_crc.md R111). -/
def crcRound (c : Word) : Word := if c.getLsbD 0 then (c >>> 1) ^^^ 0xA001 else c >>> 1

/-- `n` rounds of the bit loop. -/
def crcRounds : Nat → Word → Word
  | 0, c => c
  | n + 1, c => crcRounds n (crcRound c)

/-- `T[n]`: eight rounds from `zext_16(n)` (40_crc.md R111). -/
def crcTable (n : Byte) : Word := crcRounds 8 (n.setWidth 16)

/-- `crc_update(c, b) = (c >> 8) ^ T[(c ^ zext_16(b)) & 0x00FF]` (40_crc.md R112). -/
def crcUpdate (c : Word) (b : Byte) : Word :=
  (c >>> 8) ^^^ crcTable (((c ^^^ b.setWidth 16) &&& 0x00FF).setWidth 8)

/-- The bitwise form of the update (40_crc.md R113). -/
def crcUpdateBitwise (c : Word) (b : Byte) : Word := crcRounds 8 (c ^^^ b.setWidth 16)

/-- The value a computation starts from (40_crc.md R114, R118). -/
def crcStart : Word := 0xFFFF

/-- The remainder after more bytes. -/
def crcFold (c : Word) (m : List Byte) : Word := m.foldl crcUpdate c

/-- `crc16(m)` (40_crc.md R118). -/
def crc16 (m : List Byte) : Word := crcFold crcStart m

/-- `frame_generate(m) = m ++ [crc16(m)[7:0], crc16(m)[15:8]]` (40_crc.md R119). -/
def frameGenerate (m : List Byte) : List Byte := m ++ trailerBytes (crc16 m)

/-- The results of `frame_validate` (40_crc.md R121). -/
inductive FrameCheck where
  | dropLength
  | dropAddress
  | dropCrc
  | ok
  deriving DecidableEq, Repr

/-- The trailer a frame ends with, read little-endian: `f[n-2] | f[n-1] << 8` (40_crc.md R121). -/
def frameTrailer (f : List Byte) : Word :=
  pairWord (f.getD (f.length - 2) 0) (f.getD (f.length - 1) 0)

/-- `frame_validate(f, LOCAL_ADDR, REQ_LEN)`: length, then address, then CRC; the first check that
fails decides (40_crc.md R121). -/
def frameValidate (f : List Byte) (addr : Byte) (reqLen : Nat) : FrameCheck :=
  if f.length ≠ reqLen then .dropLength
  else if f.getD 0 0 ≠ addr then .dropAddress
  else if crc16 (f.take (f.length - 2)) ≠ frameTrailer f then .dropCrc
  else .ok

/-- Section 6 of 40_crc.md, indexes 0x00 to 0x3f. -/
def crcTableRows0 : List Word :=
  [0x0000, 0xC0C1, 0xC181, 0x0140, 0xC301, 0x03C0, 0x0280, 0xC241,
   0xC601, 0x06C0, 0x0780, 0xC741, 0x0500, 0xC5C1, 0xC481, 0x0440,
   0xCC01, 0x0CC0, 0x0D80, 0xCD41, 0x0F00, 0xCFC1, 0xCE81, 0x0E40,
   0x0A00, 0xCAC1, 0xCB81, 0x0B40, 0xC901, 0x09C0, 0x0880, 0xC841,
   0xD801, 0x18C0, 0x1980, 0xD941, 0x1B00, 0xDBC1, 0xDA81, 0x1A40,
   0x1E00, 0xDEC1, 0xDF81, 0x1F40, 0xDD01, 0x1DC0, 0x1C80, 0xDC41,
   0x1400, 0xD4C1, 0xD581, 0x1540, 0xD701, 0x17C0, 0x1680, 0xD641,
   0xD201, 0x12C0, 0x1380, 0xD341, 0x1100, 0xD1C1, 0xD081, 0x1040]

/-- Section 6 of 40_crc.md, indexes 0x40 to 0x7f. -/
def crcTableRows1 : List Word :=
  [0xF001, 0x30C0, 0x3180, 0xF141, 0x3300, 0xF3C1, 0xF281, 0x3240,
   0x3600, 0xF6C1, 0xF781, 0x3740, 0xF501, 0x35C0, 0x3480, 0xF441,
   0x3C00, 0xFCC1, 0xFD81, 0x3D40, 0xFF01, 0x3FC0, 0x3E80, 0xFE41,
   0xFA01, 0x3AC0, 0x3B80, 0xFB41, 0x3900, 0xF9C1, 0xF881, 0x3840,
   0x2800, 0xE8C1, 0xE981, 0x2940, 0xEB01, 0x2BC0, 0x2A80, 0xEA41,
   0xEE01, 0x2EC0, 0x2F80, 0xEF41, 0x2D00, 0xEDC1, 0xEC81, 0x2C40,
   0xE401, 0x24C0, 0x2580, 0xE541, 0x2700, 0xE7C1, 0xE681, 0x2640,
   0x2200, 0xE2C1, 0xE381, 0x2340, 0xE101, 0x21C0, 0x2080, 0xE041]

/-- Section 6 of 40_crc.md, indexes 0x80 to 0xbf. -/
def crcTableRows2 : List Word :=
  [0xA001, 0x60C0, 0x6180, 0xA141, 0x6300, 0xA3C1, 0xA281, 0x6240,
   0x6600, 0xA6C1, 0xA781, 0x6740, 0xA501, 0x65C0, 0x6480, 0xA441,
   0x6C00, 0xACC1, 0xAD81, 0x6D40, 0xAF01, 0x6FC0, 0x6E80, 0xAE41,
   0xAA01, 0x6AC0, 0x6B80, 0xAB41, 0x6900, 0xA9C1, 0xA881, 0x6840,
   0x7800, 0xB8C1, 0xB981, 0x7940, 0xBB01, 0x7BC0, 0x7A80, 0xBA41,
   0xBE01, 0x7EC0, 0x7F80, 0xBF41, 0x7D00, 0xBDC1, 0xBC81, 0x7C40,
   0xB401, 0x74C0, 0x7580, 0xB541, 0x7700, 0xB7C1, 0xB681, 0x7640,
   0x7200, 0xB2C1, 0xB381, 0x7340, 0xB101, 0x71C0, 0x7080, 0xB041]

/-- Section 6 of 40_crc.md, indexes 0xc0 to 0xff. -/
def crcTableRows3 : List Word :=
  [0x5000, 0x90C1, 0x9181, 0x5140, 0x9301, 0x53C0, 0x5280, 0x9241,
   0x9601, 0x56C0, 0x5780, 0x9741, 0x5500, 0x95C1, 0x9481, 0x5440,
   0x9C01, 0x5CC0, 0x5D80, 0x9D41, 0x5F00, 0x9FC1, 0x9E81, 0x5E40,
   0x5A00, 0x9AC1, 0x9B81, 0x5B40, 0x9901, 0x59C0, 0x5880, 0x9841,
   0x8801, 0x48C0, 0x4980, 0x8941, 0x4B00, 0x8BC1, 0x8A81, 0x4A40,
   0x4E00, 0x8EC1, 0x8F81, 0x4F40, 0x8D01, 0x4DC0, 0x4C80, 0x8C41,
   0x4400, 0x84C1, 0x8581, 0x4540, 0x8701, 0x47C0, 0x4680, 0x8641,
   0x8201, 0x42C0, 0x4380, 0x8341, 0x4100, 0x81C1, 0x8081, 0x4040]

/-- The table as section 6 of 40_crc.md lists it. -/
def crcTableListed : List Word :=
  crcTableRows0 ++ crcTableRows1 ++ crcTableRows2 ++ crcTableRows3

/-- `CRC_INIT`: `CRC <- 0xFFFF; respond(0x0000)` (40_crc.md R114). -/
def execCrcInit (s : State) : Host.Outcome State Fault Refusal :=
  s.respond { s.block with crc := crcStart } 0x0000

/-- `CRC_BYTE b`: `CRC <- crc_update(CRC, b); respond(0x0000)` (40_crc.md R115). -/
def execCrcByte (b : Byte) (s : State) : Host.Outcome State Fault Refusal :=
  s.respond { s.block with crc := crcUpdate s.block.crc b } 0x0000

/-- `CRC_READ`: `respond(CRC)` (40_crc.md R116). -/
def execCrcRead (s : State) : Host.Outcome State Fault Refusal :=
  s.respond s.block s.block.crc

/-- `CRC_CHECK t`: responds `0x0001` when `CRC == t`, else `0x0000` (40_crc.md R117). -/
def execCrcCheck (t : Word) (s : State) : Host.Outcome State Fault Refusal :=
  s.respond s.block (if s.block.crc = t then 0x0001 else 0x0000)

end Sys2Proof.Machine
end

