-- ==== Sys2Proof/Machine/Detector.lean ====
section
/-! DEFINITION. The multi-signal detector (43_detector.md): capture start and stop, and the meanings of
`EV_POLL` and `EV_STBY_EXPIRE`. -/

namespace Sys2Proof.Machine

/-- `capture_start()` (43_detector.md R194). -/
def captureStart (b : Block) : Block :=
  { b with capturing := true, bulkSt := .sync, bulkPos := 0, regWdtArmed := true }

/-- `capture_stop()`, the full reset of both paths (43_detector.md R195). -/
def captureStop (b : Block) : Block :=
  { b with
    capturing := false
    bulkSt := .idle
    bulkPos := 0
    settleArmed := false
    bulkWdtArmed := false
    regWdtArmed := false
    status := setButtonField 0x00 (setStatusFlag .regLive false (setStatusFlag .bulkLive false b.status))
    cmd := setButtonField 0x00 b.cmd
    mmCnt := 0 }

/-- A rising edge of the standby level (43_detector.md R193). -/
def standbyRises (prev lv : BitVec 4) : Bool := !levelStandby prev && levelStandby lv

/-- The status word after the poll's latches: `PWR`, `RED` and `WHITE` toggle once for each transition
(43_detector.md R192), a rising standby edge sets `STBY` (R193). -/
def latchLevels (prev lv : BitVec 4) (st : Word) : Word :=
  let st := toggleStatusFlag .pwr (levelPower lv != levelPower prev) st
  let st := toggleStatusFlag .red (levelRed lv != levelRed prev) st
  let st := toggleStatusFlag .white (levelWhite lv != levelWhite prev) st
  if standbyRises prev lv then setStatusFlag .stby true st else st

/-- The poll up to `LAST_LVL <- lv` (43_detector.md R191). -/
def sampleLevels (lv : BitVec 4) (b : Block) : Block :=
  { b with
    status := latchLevels b.lastLvl lv b.status
    stbyArmed := b.stbyArmed || standbyRises b.lastLvl lv
    lastLvl := lv }

/-- `lit <- STATUS.RED | STATUS.WHITE` (43_detector.md R191). -/
def Block.lit (b : Block) : Bool := b.flag .red || b.flag .white

/-- The poll's last lines: start or stop capture (43_detector.md R191). -/
def startOrStop (b : Block) : Block :=
  if b.lit && !b.capturing then captureStart b
  else if !b.lit && b.capturing then captureStop b
  else b

/-- `EV_POLL lv` (43_detector.md R191): never dropped. -/
def execEvPoll (lv : BitVec 4) (s : State) : Host.Outcome State Fault Refusal :=
  s.accept (startOrStop (sampleLevels lv s.block))

/-- `EV_STBY_EXPIRE` (43_detector.md R196): standby declared inactive. -/
def execEvStbyExpire (s : State) : Host.Outcome State Fault Refusal :=
  if s.block.stbyArmed then
    s.accept { s.block with
      stbyArmed := false, status := setStatusFlag .stby false s.block.status }
  else notEnabled .evStbyExpire

end Sys2Proof.Machine
end

