-- ==== Sys2Proof/Machine/HostPort.lean ====
section
/-! DEFINITION. The host operations on the register store (45_host.md). -/

namespace Sys2Proof.Machine

/-- `HOST_READ_STATUS` (45_host.md R231): responds the value before the clear. -/
def execHostReadStatus (s : State) : Host.Outcome State Fault Refusal :=
  s.respond
    { s.block with
      status := setStatusFlag .pf false (setStatusFlag .mp false s.block.status)
      unreadStatus := false }
    s.block.status

/-- `HOST_READ_CMD`: `respond(CMD)` (45_host.md R232). -/
def execHostReadCmd (s : State) : Host.Outcome State Fault Refusal :=
  s.respond s.block s.block.cmd

/-- `HOST_WRITE_CMD w`: `CMD <- w; respond(CMD)` (45_host.md R233). -/
def execHostWriteCmd (w : Word) (s : State) : Host.Outcome State Fault Refusal :=
  s.respond { s.block with cmd := w } w

/-- `HOST_SET_LOCK e`: `SNAPSHOT_LOCKED <- e` (45_host.md R234). -/
def execHostSetLock (e : Bool) (s : State) : Host.Outcome State Fault Refusal :=
  s.respond { s.block with snapshotLocked := e } 0x0000

/-- `HOST_READ_PAGE p, i` (45_host.md R235): `PAGE[p][i]`, or `Illegal(E_RANGE)`, which the decoder
raises first for a word that arrives (30_encoding.md R96). -/
def execHostReadPage (p i : Byte) (s : State) : Host.Outcome State Fault Refusal :=
  if pageInRange s.cfg p i then s.respond s.block (s.block.pageWordAt p.toNat i.toNat)
  else s.illegal .host .range

/-- `HOST_CLEAR_UNREAD_SNAP`: `UNREAD_SNAPSHOT <- 0` (45_host.md R236). -/
def execHostClearUnreadSnap (s : State) : Host.Outcome State Fault Refusal :=
  s.respond { s.block with unreadSnapshot := false } 0x0000

/-- `HOST_READ_FLAGS`: the `FLAGS` view (45_host.md R237). -/
def execHostReadFlags (s : State) : Host.Outcome State Fault Refusal :=
  s.respond s.block (flagsView s.block)

/-- `HOST_READ_DIAG`: the `DIAG` view (45_host.md R238). -/
def execHostReadDiag (s : State) : Host.Outcome State Fault Refusal :=
  s.respond s.block (diagView s.block)

end Sys2Proof.Machine
end

