-- ==== Sys2Proof/Machine/Parser.lean ====
section
/-! DEFINITION. The frame parser (44_parser.md): the page transform and the meaning of `PARSE`. -/

namespace Sys2Proof.Machine

/-- `byte_at(j)`: `CAPBUF[j]` inside the frame, `0x00` past its end (44_parser.md R211). -/
def byteAt (c : Config) (cap : List Host.Cell) (j : Nat) : Byte :=
  if j < c.frameLen then Memory.read cap j else 0x00

/-- `page_word(p, i)`: stream word `k = (p - 1) * PAGE_WORDS + i`, low byte first (44_parser.md R211). -/
def pageWord (c : Config) (cap : List Host.Cell) (p i : Nat) : Word :=
  let k := (p - 1) * c.pageWords + i
  pairWord (byteAt c cap (2 * k)) (byteAt c cap (2 * k + 1))

/-- The element of `PG` that an index names, as the parser fills it. -/
def pageWordOfKey (c : Config) (cap : List Host.Cell) (k : Nat) : Word :=
  pageWord c cap (k / 256) (k % 256)

/-- The indexes `(p, i)` in the order `for p in 1..PAGES: for i in 0..PAGE_WORDS-1` (44_parser.md R210). -/
def pageKeys (c : Config) : List Nat :=
  (List.range Config.pages).flatMap
    (fun q => (List.range c.pageWords).map (fun i => pageKey (q + 1) i))

/-- The rewrite of every page word (44_parser.md R210). -/
def parsePages (c : Config) (cap : List Host.Cell) (page : Memory 16) : Memory 16 :=
  Memory.writeAll (pageWordOfKey c cap) (pageKeys c) page

/-- `PARSE` (44_parser.md R210): runs on a pending frame while the snapshot is not locked. -/
def execParse (s : State) : Host.Outcome State Fault Refusal :=
  if s.block.capturePending && !s.block.snapshotLocked then
    s.accept { s.block with
      page := parsePages s.cfg s.block.cap s.block.page
      capturePending := false
      unreadSnapshot := true }
  else notEnabled .parse

end Sys2Proof.Machine
end

