-- ==== Sys2Proof/Machine/Register.lean ====
section
/-! DEFINITION. The register capture path (42_register_capture.md): the meanings of `EV_REG_DONE` and
`EV_REG_WDT_EXPIRE`. -/

namespace Sys2Proof.Machine

/-- The mismatch counter after a completion (42_register_capture.md R173): cleared when the bytes are
equal, else one more, saturating at `MISMATCH_LIMIT`. -/
def nextMismatch (c : Config) (btn req : Byte) (n : BitVec 3) : BitVec 3 :=
  if btn = req then 0 else BitVec.ofNat 3 (min (n.toNat + 1) c.mismatchLimit)

/-- `classify(btn, req)` on the status word (42_register_capture.md R174). -/
def classify (btn req : Byte) (st : Word) : Word :=
  if btn = 0x00 ∧ req ≠ 0x00 then setStatusFlag .pf true st
  else if btn &&& ~~~req ≠ 0x00 then setStatusFlag .mp true st
  else st

/-- What an accepted `EV_REG_DONE` writes (42_register_capture.md R171); the classification runs on a
mismatch whose new count is `MISMATCH_LIMIT`. -/
def regDone (c : Config) (w : Word) (b : Block) : Block :=
  let btn := buttonByte w
  let req := b.btnReq
  let st := setStatusFlag .regLive true (setButtonField btn b.status)
  let n := nextMismatch c btn req b.mmCnt
  { b with
    status := if btn ≠ req ∧ n.toNat = c.mismatchLimit then classify btn req st else st
    regWdtArmed := true
    mmCnt := n }

/-- `EV_REG_DONE w` (42_register_capture.md R171): dropped while not capturing. -/
def execEvRegDone (w : Word) (s : State) : Host.Outcome State Fault Refusal :=
  if s.block.capturing then s.accept (regDone s.cfg w s.block) else s.drop

/-- `EV_REG_WDT_EXPIRE` (42_register_capture.md R175): the fail-safe clear of both button bytes. -/
def execEvRegWdtExpire (s : State) : Host.Outcome State Fault Refusal :=
  if s.block.regWdtArmed then
    s.accept { s.block with
      regWdtArmed := false
      status := setButtonField 0x00 (setStatusFlag .regLive false s.block.status)
      cmd := setButtonField 0x00 s.block.cmd
      mmCnt := 0 }
  else notEnabled .evRegWdtExpire

end Sys2Proof.Machine
end

