-- ==== Sys2Proof/Machine/Dispatch.lean ====
section
/-! DEFINITION. One arm per operation of the opcode map (30_encoding.md R94). -/

namespace Sys2Proof.Machine

def exec (i : Instr) (s : State) : Host.Outcome State Fault Refusal :=
  match i with
  | .crcInit => Sys2Proof.Machine.execCrcInit s
  | .crcByte b => Sys2Proof.Machine.execCrcByte b s
  | .crcRead => Sys2Proof.Machine.execCrcRead s
  | .crcCheck t => Sys2Proof.Machine.execCrcCheck t s
  | .evFrameEdge => Sys2Proof.Machine.execEvFrameEdge s
  | .evSettleExpire => Sys2Proof.Machine.execEvSettleExpire s
  | .evBulkByte b => Sys2Proof.Machine.execEvBulkByte b s
  | .evBulkWdtExpire => Sys2Proof.Machine.execEvBulkWdtExpire s
  | .evRegDone w => Sys2Proof.Machine.execEvRegDone w s
  | .evRegWdtExpire => Sys2Proof.Machine.execEvRegWdtExpire s
  | .evPoll lv => Sys2Proof.Machine.execEvPoll lv s
  | .evStbyExpire => Sys2Proof.Machine.execEvStbyExpire s
  | .parse => Sys2Proof.Machine.execParse s
  | .hostReadStatus => Sys2Proof.Machine.execHostReadStatus s
  | .hostReadCmd => Sys2Proof.Machine.execHostReadCmd s
  | .hostWriteCmd w => Sys2Proof.Machine.execHostWriteCmd w s
  | .hostSetLock e => Sys2Proof.Machine.execHostSetLock e s
  | .hostReadPage p x => Sys2Proof.Machine.execHostReadPage p x s
  | .hostClearUnreadSnap => Sys2Proof.Machine.execHostClearUnreadSnap s
  | .hostReadFlags => Sys2Proof.Machine.execHostReadFlags s
  | .hostReadDiag => Sys2Proof.Machine.execHostReadDiag s

end Sys2Proof.Machine
end

