-- ==== Sys2Proof/Machine/Ports.lean ====
section
/-! DEFINITION. What the two ports and the reset input do with what arrives (30_encoding.md R91, R96;
70_reset_and_hazards.md R290), and what an agent may put on its port (10_state.md R22). -/

namespace Sys2Proof.Machine

/-- A legal operation at the port: its transition, or, where it has none, its outcome reported. -/
def performOp (i : Instr) (s : State) : Host.Outcome State Fault Refusal :=
  settleOutcome s (exec i s)

/-- A word at a port: lost while reset is asserted; refused with its code when illegal, before any
enable condition is looked at (60_exceptions.md R266); else performed. -/
def takeWord (p : Port) (w : OpWord) (s : State) : Host.Outcome State Fault Refusal :=
  if s.inReset then s.lose
  else
    match decode s.cfg p w with
    | .error e => s.illegal p e
    | .ok i => performOp i s

/-- One input. -/
def takeInput (x : Input) (s : State) : Host.Outcome State Fault Refusal :=
  match x with
  | .op p w => takeWord p w s
  | .reset asserted => s.resetEdge asserted

/-- The oldest input is taken off the queue and acted on. The block "acts only when an operation
arrives" (10_state.md R21), so with nothing there nothing changes (log entry 2). -/
def takeNext (s : State) : Host.Outcome State Fault Refusal :=
  match s.inputs with
  | [] => .next s
  | x :: rest => takeInput x { s with inputs := rest }

/-- The input that carries an operation on the port of its agent. -/
def arrival (i : Instr) : Input := .op i.op.agent.port (encode i)

/-- An agent issues an operation: it joins the queue if it is one of that agent's (10_state.md R22). -/
def State.issue (s : State) (a : Agent) (i : Instr) : State :=
  if i.op.agent = a then { s with inputs := s.inputs ++ [arrival i] } else s

/-- "A model gives each one its own step" (10_state.md R22): the step of one agent, which performs an
operation of that agent in the state the previous operation left (20_memory.md R69) and takes nothing
from the queue. An agent has no step with another agent's operation: it changes nothing. -/
def agentStep (a : Agent) (i : Instr) (s : State) : Host.Outcome State Fault Refusal :=
  if i.op.agent = a then takeWord a.port (encode i) s else .next s

/-- A run of legal operations, one atomic step each, in the order given (20_memory.md R69, R71). -/
def performAll : List Instr → State → Host.Outcome State Fault Refusal
  | [], s => .next s
  | i :: is, s =>
    match performOp i s with
    | .next t => performAll is t
    | .fault f => .fault f
    | .refused r => .refused r

end Sys2Proof.Machine
end

