-- ==== Sys2Proof/Machine/Step.lean ====
section
/-! DEFINITION. One step of the machine, and the state that runs a given word next. -/

namespace Sys2Proof.Machine

/-- One step: one input, wholly (20_memory.md R69). -/
def step (s : State) : Host.Outcome State Fault Refusal := Sys2Proof.Machine.takeNext s

/-- The state in which a word of `nbits` bits is the next input, on the port of its opcode's class, and
the reset input is released, so that the word is not lost (log entries 1 and 15). -/
def State.withFetchWord (s : State) (nbits w : Nat) : State :=
  let v : OpWord := BitVec.ofNat 32 (w % 2 ^ nbits)
  { s with inputs := .op (classPort v) v :: s.inputs, inReset := false }

end Sys2Proof.Machine
end

