-- ==== Sys2Proof/Machine/Frames.lean ====
section
/-! DEFINITION. The frame layouts the CRC covers (40_crc.md R125, R126) and the fieldbus exception codes
(60_exceptions.md R276). The host builds these frames; the CRC unit generates their trailers. -/

namespace Sys2Proof.Machine

/-- Bytes 0 to 5 of a request: address, function code, first register and count or value, each high
byte first (40_crc.md R125). -/
def requestBody (addr fc : Byte) (reg val : Word) : List Byte :=
  [addr, fc] ++ wireBytes reg ++ wireBytes val

/-- A request frame of 8 bytes (40_crc.md R125). -/
def requestFrame (addr fc : Byte) (reg val : Word) : List Byte :=
  frameGenerate (requestBody addr fc reg val)

/-- The byte count `N` of a read response with `n` data bytes (40_crc.md R126). One byte cannot hold an `n`
above 255, which `PAGE_WORDS` above 127 gives (00_scope.md R5, P3): the rule states no count there, and
the model leaves it free (log entry 18, DESIGN CHOICE). -/
def byteCount (n : Nat) : Byte := if n ≤ 255 then BitVec.ofNat 8 n else Config.longByteCount n

/-- A read response: address, function code, byte count `N`, `N` data bytes, trailer (40_crc.md R126).
Where the byte count cannot hold the number of data bytes, the model still sends them all (log entry 18,
DESIGN CHOICE). -/
def readResponse (addr fc : Byte) (regs : List Word) : List Byte :=
  frameGenerate ([addr, fc, byteCount (2 * regs.length)] ++ regs.flatMap wireBytes)

/-- A write response echoes the request: address, function code, register, value, trailer (40_crc.md
R126). -/
def writeResponse (addr fc : Byte) (reg val : Word) : List Byte :=
  frameGenerate (requestBody addr fc reg val)

/-- The fieldbus exception codes of the host (60_exceptions.md R276; `0x02` is from general knowledge
there, log entry 13). -/
inductive FieldbusException where
  | illegalFunction
  | illegalAddress
  deriving DecidableEq, Repr

/-- The code's value (60_exceptions.md R276). -/
def fieldbusCode : FieldbusException → Byte
  | .illegalFunction => 0x01
  | .illegalAddress => 0x02

/-- An exception response of 5 bytes: address, function code with bit 7 set, code, trailer (40_crc.md
R126, 60_exceptions.md R276). -/
def exceptionResponse (addr fc : Byte) (e : FieldbusException) : List Byte :=
  frameGenerate [addr, fc ||| 0x80, fieldbusCode e]

end Sys2Proof.Machine
end

