-- ==== Sys2Proof/Machine/Trace.lean ====
section
/-! DEFINITION. Operation traces: their text (30_encoding.md R99) and the pseudo-operations with their
expansions (R100). -/

namespace Sys2Proof.Machine

/-- The mnemonic of a row (30_encoding.md R94, spec/opcode_table.json). -/
def opMnemonic : Op → String
  | .crcInit => "CRC_INIT"
  | .crcByte => "CRC_BYTE"
  | .crcRead => "CRC_READ"
  | .crcCheck => "CRC_CHECK"
  | .evFrameEdge => "EV_FRAME_EDGE"
  | .evSettleExpire => "EV_SETTLE_EXPIRE"
  | .evBulkByte => "EV_BULK_BYTE"
  | .evBulkWdtExpire => "EV_BULK_WDT_EXPIRE"
  | .evRegDone => "EV_REG_DONE"
  | .evRegWdtExpire => "EV_REG_WDT_EXPIRE"
  | .evPoll => "EV_POLL"
  | .evStbyExpire => "EV_STBY_EXPIRE"
  | .parse => "PARSE"
  | .hostReadStatus => "HOST_READ_STATUS"
  | .hostReadCmd => "HOST_READ_CMD"
  | .hostWriteCmd => "HOST_WRITE_CMD"
  | .hostSetLock => "HOST_SET_LOCK"
  | .hostReadPage => "HOST_READ_PAGE"
  | .hostClearUnreadSnap => "HOST_CLEAR_UNREAD_SNAP"
  | .hostReadFlags => "HOST_READ_FLAGS"
  | .hostReadDiag => "HOST_READ_DIAG"

/-- One digit, in the capitals the examples of 30_encoding.md R101 use (log entry 16). -/
def digitChar (n : Nat) : Char :=
  ['0', '1', '2', '3', '4', '5', '6', '7', '8', '9', 'A', 'B', 'C', 'D', 'E', 'F'].getD n '0'

/-- The lowest `k` digits of a number in a base, most significant first. -/
def fixedDigits (base : Nat) : Nat → Nat → List Char
  | 0, _ => []
  | k + 1, n => fixedDigits base k (n / base) ++ [digitChar (n % base)]

/-- A number below 1000 in decimal, without leading zeros. -/
def decimalDigits (n : Nat) : List Char :=
  if n < 10 then fixedDigits 10 1 n else if n < 100 then fixedDigits 10 2 n else fixedDigits 10 3 n

/-- The operand as it stands after the mnemonic (30_encoding.md R99): `0xHH`, `0xHHHH`, `0|1`, `0bWRSP`
(white, red, standby, power), `p, i`. -/
def operandText : Instr → List Char
  | .crcByte b | .evBulkByte b => ['0', 'x'] ++ fixedDigits 16 2 b.toNat
  | .crcCheck w | .evRegDone w | .hostWriteCmd w => ['0', 'x'] ++ fixedDigits 16 4 w.toNat
  | .evPoll lv => ['0', 'b'] ++ fixedDigits 2 4 lv.toNat
  | .hostSetLock e => [if e then '1' else '0']
  | .hostReadPage p i => decimalDigits p.toNat ++ [',', ' '] ++ decimalDigits i.toNat
  | .crcInit | .crcRead | .evFrameEdge | .evSettleExpire | .evBulkWdtExpire => []
  | .evRegWdtExpire | .evStbyExpire | .parse | .hostReadStatus | .hostReadCmd => []
  | .hostClearUnreadSnap | .hostReadFlags | .hostReadDiag => []

/-- One line of a trace: the mnemonic, and the operand after a space where the form has one
(30_encoding.md R99). -/
def traceLine (i : Instr) : String × List Char :=
  (opMnemonic i.op, if operandText i = [] then [] else ' ' :: operandText i)

/-- The same line as one text. -/
def traceText (i : Instr) : String := (traceLine i).1 ++ String.ofList (traceLine i).2

/-- A trace: operations, the pseudo-operations of 30_encoding.md R100, and `REPEAT`. -/
inductive Trace where
  | op (i : Instr)
  | crcFrame (m : List Byte)
  | hostLock
  | hostUnlock
  | evBulkBlock (m : List Byte)
  | evBulkFill (v : Byte)
  | hostReadPageAll (p : Byte)
  | followedBy (a b : Trace)
  | rep (n : Nat) (body : Trace)
  deriving DecidableEq, Repr

/-- `CRC_FRAME b0, ..., bn-1`: `CRC_INIT`, then one `CRC_BYTE` for each byte (30_encoding.md R100). -/
def crcFrameOps (m : List Byte) : List Instr := .crcInit :: m.map .crcByte

/-- `HOST_READ_PAGE_ALL p`: the page's words in order (30_encoding.md R100). -/
def readPageOps (c : Config) (p : Byte) : List Instr :=
  (List.range c.pageWords).map (fun i => .hostReadPage p (BitVec.ofNat 8 i))

/-- The operations a trace stands for (30_encoding.md R100). `EV_BULK_BLOCK` is written with
`FRAME_LEN` bytes. -/
def expandTrace (c : Config) : Trace → List Instr
  | .op i => [i]
  | .crcFrame m => crcFrameOps m
  | .hostLock => [.hostSetLock true]
  | .hostUnlock => [.hostSetLock false]
  | .evBulkBlock m => m.map .evBulkByte
  | .evBulkFill v => List.replicate c.frameLen (.evBulkByte v)
  | .hostReadPageAll p => readPageOps c p
  | .followedBy a b => expandTrace c a ++ expandTrace c b
  | .rep n body => (List.replicate n (expandTrace c body)).flatten

end Sys2Proof.Machine
end

