-- ==== Sys2Proof/Machine/HostDuty.lean ====
section
/-! DEFINITION. The host's side of the block's promises (45_host.md R240 to R245): the operations each
fieldbus request stands for, the lock session, and the register map they are addressed by
(20_memory.md R80). No step of the block depends on these. -/

namespace Sys2Proof.Machine

/-- The fieldbus requests the block serves (45_host.md R243). -/
inductive HostRequest where
  | readHolding
  | readStatus
  | readPage (p : Byte)
  | writeSingle (w : Word)
  deriving DecidableEq, Repr

/-- The register address of snapshot page `p`: `PAGE1_BASE + (p-1) * PAGE_STRIDE` (20_memory.md R80). -/
def pageAddress (h : HostConfig) (p : Byte) : Nat := h.page1Base + (p.toNat - 1) * Config.pageStride

/-- The address a request must carry (45_host.md R243, column `precondition`). -/
def requestAddress (h : HostConfig) : HostRequest → Nat
  | .readHolding => 0
  | .readStatus => 0
  | .readPage p => pageAddress h p
  | .writeSingle _ => 0

/-- The register count a read must carry (45_host.md R243); a write carries its value instead. -/
def requestCount (c : Config) : HostRequest → Option Nat
  | .readHolding => some 1
  | .readStatus => some 1
  | .readPage _ => some c.pageWords
  | .writeSingle _ => none

/-- What ends a lock session: after page 5 (45_host.md R241) or on lock expiry (R242). -/
def unlockOps : List Instr := [.hostSetLock false, .hostClearUnreadSnap]

/-- The block operations a request is served with (45_host.md R243; the lock first, R240; the unlock
after the last page, R241). -/
def requestOps (c : Config) : HostRequest → List Instr
  | .readHolding => [.hostReadCmd]
  | .readStatus => [.hostReadStatus]
  | .readPage p =>
    (if p.toNat = 1 then [.hostSetLock true] else []) ++ readPageOps c p ++
      (if p.toNat = Config.pages then unlockOps else [])
  | .writeSingle w => [.hostWriteCmd w]

/-- A whole lock session: the pages in order (45_host.md R240 to R242). -/
def sessionOps (c : Config) : List Instr :=
  ([1, 2, 3, 4, 5] : List Byte).flatMap (fun p => requestOps c (.readPage p))

/-- Checking a request's trailer with the CRC unit (45_host.md R243, row "every request"). -/
def checkRequestOps (f : List Byte) : List Instr :=
  crcFrameOps (f.take (f.length - 2)) ++ [.crcCheck (frameTrailer f)]

/-- Computing a response's trailer with the CRC unit (45_host.md R243, row "every request"). -/
def makeTrailerOps (m : List Byte) : List Instr := crcFrameOps m ++ [.crcRead]

/-- Whether the host may answer a received frame at all: every frame whose `frame_validate` is not `OK`
is dropped, with no response and no block operation (40_crc.md R122, 45_host.md R245). -/
def mayAnswer (h : HostConfig) (f : List Byte) : Bool :=
  decide (frameValidate f h.localAddr Config.reqLen = .ok)

end Sys2Proof.Machine
end

