-- ==== Sys2Proof/Safety.lean ====
section
/-! DEFINITION. The terms the statements about the machine use: the invariants of 10_state.md R46, the
elements an operation may write, the enable table of 60_exceptions.md R263, and the encoding of a row in
the numbers the spec prints. -/

namespace Sys2Proof.Machine

/-! ## Invariants -/

/-- 10_state.md R46, in its numbering, with the ranges of R37 and R38 and the canonical memories of
20_memory.md R60. R46 item 9 also names `CMD.BTN_REQ`, "except that the host may write `CMD.BTN_REQ`
at any time", which leaves no invariant of it (log entry 11). -/
structure Block.Inv (c : Config) (b : Block) : Prop where
  /-- R46.1 -/
  settle_armed_iff : b.settleArmed = true ↔ b.bulkSt = .settle
  /-- R46.2 -/
  busy_iff_capturing : b.bulkSt ≠ .idle ↔ b.capturing = true
  /-- R46.3 -/
  pos_zero_outside_xfer : b.bulkSt ≠ .xfer → b.bulkPos = 0
  /-- R46.4, first sentence -/
  bulk_wdt_armed_iff : b.bulkWdtArmed = true ↔ b.bulkSt = .xfer
  /-- R46.4, second sentence -/
  reg_wdt_armed_capturing : b.regWdtArmed = true → b.capturing = true
  /-- R46.5 -/
  mm_cnt_le : b.mmCnt.toNat ≤ c.mismatchLimit
  /-- R46.6 -/
  pwr_level : b.flag .pwr = levelPower b.lastLvl
  /-- R46.6 -/
  red_level : b.flag .red = levelRed b.lastLvl
  /-- R46.6 -/
  white_level : b.flag .white = levelWhite b.lastLvl
  /-- R46.7 -/
  capturing_iff_lit : b.capturing = b.lit
  /-- R46.8 -/
  stby_armed : b.flag .stby = true → b.stbyArmed = true
  /-- R46.9 -/
  stopped_clear : b.capturing = false →
    b.flag .bulkLive = false ∧ b.flag .regLive = false ∧ b.btn = 0x00
  /-- R37 -/
  pos_lt : b.bulkPos.toNat < c.frameLen
  rx0_canonical : Memory.wf b.rx0 = true
  rx1_canonical : Memory.wf b.rx1 = true
  cap_canonical : Memory.wf b.cap = true
  page_canonical : Memory.wf b.page = true
  rx0_within : Memory.within (fun k => decide (k < c.frameLen)) b.rx0 = true
  rx1_within : Memory.within (fun k => decide (k < c.frameLen)) b.rx1 = true
  cap_within : Memory.within (fun k => decide (k < c.frameLen)) b.cap = true
  page_within : Memory.within (pageKeyOk c) b.page = true

/-- The invariant of the machine: parameters in the range of 00_scope.md R5, the block's invariant, and
reset values while the reset input is asserted (70_reset_and_hazards.md R290). -/
structure State.Inv (s : State) : Prop where
  cfg_wf : s.cfg.wf
  block : s.block.Inv s.cfg
  reset_holds : s.inReset = true → s.block = Block.reset

/-! ## Frames -/

/-- The elements of the block that an operation may or may not write: each field of `STATUS` and `CMD`
by itself, every register, flag, timer bit and memory. -/
inductive Element where
  | statusBtn
  | statusFlag (f : StatusFlag)
  | cmdBtnReq
  | cmdHigh
  | crc
  | capturePending
  | snapshotLocked
  | unreadStatus
  | unreadSnapshot
  | capturing
  | bulkSt
  | bulkAct
  | bulkPos
  | mmCnt
  | lastLvl
  | settleArmed
  | bulkWdtArmed
  | regWdtArmed
  | stbyArmed
  | rxbuf (a : Half)
  | capbuf
  | page
  deriving DecidableEq, Repr

/-- Two blocks agree on an element; on a memory, when every index reads the same. -/
def Block.agree (x y : Block) : Element → Prop
  | .statusBtn => x.btn = y.btn
  | .statusFlag f => x.flag f = y.flag f
  | .cmdBtnReq => x.btnReq = y.btnReq
  | .cmdHigh => highByte x.cmd = highByte y.cmd
  | .crc => x.crc = y.crc
  | .capturePending => x.capturePending = y.capturePending
  | .snapshotLocked => x.snapshotLocked = y.snapshotLocked
  | .unreadStatus => x.unreadStatus = y.unreadStatus
  | .unreadSnapshot => x.unreadSnapshot = y.unreadSnapshot
  | .capturing => x.capturing = y.capturing
  | .bulkSt => x.bulkSt = y.bulkSt
  | .bulkAct => x.bulkAct = y.bulkAct
  | .bulkPos => x.bulkPos = y.bulkPos
  | .mmCnt => x.mmCnt = y.mmCnt
  | .lastLvl => x.lastLvl = y.lastLvl
  | .settleArmed => x.settleArmed = y.settleArmed
  | .bulkWdtArmed => x.bulkWdtArmed = y.bulkWdtArmed
  | .regWdtArmed => x.regWdtArmed = y.regWdtArmed
  | .stbyArmed => x.stbyArmed = y.stbyArmed
  | .rxbuf a => ∀ k, Memory.read (x.rx a) k = Memory.read (y.rx a) k
  | .capbuf => ∀ k, Memory.read x.cap k = Memory.read y.cap k
  | .page => ∀ k, Memory.read x.page k = Memory.read y.page k

/-- The elements each rule's pseudocode and "Flags written" name, with `UNREAD_STATUS` where the event
can change `STATUS` (10_state.md R35). -/
def opWrites : Op → List Element
  | .crcInit => [.crc]
  | .crcByte => [.crc]
  | .crcRead => []
  | .crcCheck => []
  | .evFrameEdge => [.bulkSt, .settleArmed]
  | .evSettleExpire => [.settleArmed, .bulkSt, .bulkPos, .bulkWdtArmed]
  | .evBulkByte =>
    [.rxbuf .zero, .rxbuf .one, .bulkPos, .capbuf, .capturePending, .bulkAct, .bulkWdtArmed,
      .statusFlag .bulkLive, .unreadStatus]
  | .evBulkWdtExpire => [.bulkWdtArmed, .statusFlag .bulkLive, .bulkSt, .bulkPos, .unreadStatus]
  | .evRegDone =>
    [.statusBtn, .statusFlag .regLive, .statusFlag .pf, .statusFlag .mp, .regWdtArmed, .mmCnt,
      .unreadStatus]
  | .evRegWdtExpire =>
    [.regWdtArmed, .statusFlag .regLive, .statusBtn, .cmdBtnReq, .mmCnt, .unreadStatus]
  | .evPoll =>
    [.statusFlag .pwr, .statusFlag .red, .statusFlag .white, .statusFlag .stby, .stbyArmed, .lastLvl,
      .capturing, .bulkSt, .bulkPos, .settleArmed, .bulkWdtArmed, .regWdtArmed,
      .statusFlag .bulkLive, .statusFlag .regLive, .statusBtn, .cmdBtnReq, .mmCnt, .unreadStatus]
  | .evStbyExpire => [.stbyArmed, .statusFlag .stby, .unreadStatus]
  | .parse => [.page, .capturePending, .unreadSnapshot]
  | .hostReadStatus => [.statusFlag .mp, .statusFlag .pf, .unreadStatus]
  | .hostReadCmd => []
  | .hostWriteCmd => [.cmdBtnReq, .cmdHigh]
  | .hostSetLock => [.snapshotLocked]
  | .hostReadPage => []
  | .hostClearUnreadSnap => [.unreadSnapshot]
  | .hostReadFlags => []
  | .hostReadDiag => []

/-! ## Enables (60_exceptions.md R263) -/

/-- Column "enabled when" of R263; every host operation is always enabled (70_reset_and_hazards.md R291). -/
def opEnabled (b : Block) : Op → Bool
  | .evFrameEdge => decide (b.bulkSt = .sync)
  | .evSettleExpire => b.settleArmed
  | .evBulkByte => decide (b.bulkSt = .xfer)
  | .evBulkWdtExpire => b.bulkWdtArmed
  | .evRegDone => b.capturing
  | .evRegWdtExpire => b.regWdtArmed
  | .evPoll => true
  | .evStbyExpire => b.stbyArmed
  | .parse => b.capturePending && !b.snapshotLocked
  | .crcInit | .crcByte | .crcRead | .crcCheck => true
  | .hostReadStatus | .hostReadCmd | .hostWriteCmd | .hostSetLock | .hostReadPage => true
  | .hostClearUnreadSnap | .hostReadFlags | .hostReadDiag => true

/-- Whether an event comes from a physical source, so that it is dropped where it is not enabled
(60_exceptions.md R263, column "if not enabled"). -/
def opPhysical : Op → Bool
  | .evFrameEdge | .evBulkByte | .evRegDone | .evPoll => true
  | .evSettleExpire | .evBulkWdtExpire | .evRegWdtExpire | .evStbyExpire | .parse => false
  | .crcInit | .crcByte | .crcRead | .crcCheck => false
  | .hostReadStatus | .hostReadCmd | .hostWriteCmd | .hostSetLock | .hostReadPage => false
  | .hostClearUnreadSnap | .hostReadFlags | .hostReadDiag => false

/-! ## Encodings in the spec's own numbers -/

/-- The encoding and the exceptions of one row, in the numbers its rule prints: the words `base` with
operand field `d` are the operation `mk d` on port `p` when no bit of `mbz` is set in `d`; the other
port, a reserved field that is not zero, and a must-be-zero bit that is set give their codes, in that
order (30_encoding.md R96). A row of form W or PI has no must-be-zero bits, so there the last clause
says nothing, as its rule names no `Illegal(E_OPERAND)`. -/
def RowEncodes (p : Port) (base : OpWord) (mbz : Word) (mk : Word → Instr) : Prop :=
  ∀ (c : Config) (d : Word) (rsv : Byte),
    (d &&& mbz = 0 → (mk d).wf c = true → decode c p (base ||| d.setWidth 32) = .ok (mk d)) ∧
    (∀ q, q ≠ p →
      decode c q (base ||| rsv.setWidth 32 <<< 16 ||| d.setWidth 32) = .error .port) ∧
    (rsv ≠ 0 →
      decode c p (base ||| rsv.setWidth 32 <<< 16 ||| d.setWidth 32) = .error .reserved) ∧
    (d &&& mbz ≠ 0 → decode c p (base ||| d.setWidth 32) = .error .operand)

/-- Opcodes 30_encoding.md R96 item 1 lists as not in the map. -/
def opcodeUnassigned (n : Nat) : Bool :=
  decide (n = 0x00) || decide (0x05 ≤ n ∧ n ≤ 0x0F) || decide (0x14 ≤ n ∧ n ≤ 0x1F) ||
    decide (0x22 ≤ n ∧ n ≤ 0x2F) || decide (0x32 ≤ n ∧ n ≤ 0x3F) ||
    decide (0x41 ≤ n ∧ n ≤ 0x4F) || decide (0x58 ≤ n)

/-- The class of an assigned opcode: H for `0x01`–`0x04` and `0x50`–`0x57`, else E (30_encoding.md
R91). -/
def opcodeClass (n : Nat) : Port := if n ≤ 0x04 ∨ 0x50 ≤ n then .host else .event

/-- The must-be-zero bits of an assigned opcode's operand form (30_encoding.md R92 and R94). -/
def opcodeMustBeZero (n : Nat) : Word :=
  if n = 0x02 ∨ n = 0x12 then 0xFF00
  else if n = 0x04 ∨ n = 0x20 ∨ n = 0x52 ∨ n = 0x54 then 0x0000
  else if n = 0x30 then 0xFFF0
  else if n = 0x53 then 0xFFFE
  else 0xFFFF

/-- The code of the first check of 30_encoding.md R96 a word fails, read from R96's own ranges. -/
def firstFailedCheck (c : Config) (p : Port) (w : OpWord) : Option IllegalCode :=
  let opc := w.toNat / 2 ^ 24
  let opnd : Word := w.extractLsb' 0 16
  let pg := opnd.toNat / 256
  let ix := opnd.toNat % 256
  if opcodeUnassigned opc then some .opcode
  else if p ≠ opcodeClass opc then some .port
  else if w.toNat / 2 ^ 16 % 256 ≠ 0 then some .reserved
  else if opnd &&& opcodeMustBeZero opc ≠ 0 then some .operand
  else if opc = 0x54 ∧ ¬ (1 ≤ pg ∧ pg ≤ 5 ∧ ix < c.pageWords) then some .range
  else none

/-! ## Frames of bytes -/

/-- A byte sequence with one bit of one byte flipped (40_crc.md R124). -/
def flipBit (f : List Byte) (j k : Nat) : List Byte :=
  f.set j (f.getD j 0 ^^^ BitVec.twoPow 8 k)

/-- The trailer comparison of 40_crc.md R121 and R124. -/
def trailerMatches (f : List Byte) : Prop := crc16 (f.take (f.length - 2)) = frameTrailer f

/-- A receive half or the capture buffer holds a byte sequence from index 0 on (20_memory.md R60). -/
def Holds (m : List Host.Cell) (bytes : List Byte) : Prop :=
  ∀ j, j < bytes.length → Memory.read m j = bytes.getD j 0

end Sys2Proof.Machine
end

