-- ==== Sys2Proof/Certificates/Slice0/Obligations.lean ====
section
/-! DEFINITION. The statements for the provers. Each says what the numbered rules of spec/ say; the
docstring names the rules. A statement about an operation holds in every state its hypotheses allow,
reachable or not. -/

open Sys2Proof Sys2Proof.Machine

/-! ## Reset -/

/-- 10_state.md R47: the value of every element after reset, whatever the parameters. -/
def Obligations.ResetHoldsTheListedValues : Prop :=
  ∀ c : Config,
    let b := (State.resetWith c).block
    State.reset.block = b ∧
    b.status = 0x0000 ∧ b.cmd = 0x0000 ∧ b.crc = 0xFFFF ∧
    b.capturePending = false ∧ b.snapshotLocked = false ∧ b.unreadStatus = false ∧
    b.unreadSnapshot = false ∧ b.capturing = false ∧
    b.bulkSt = .idle ∧ b.bulkAct = .zero ∧ b.bulkPos = 0 ∧ b.mmCnt = 0 ∧ b.lastLvl = 0b0000 ∧
    b.settleArmed = false ∧ b.bulkWdtArmed = false ∧ b.regWdtArmed = false ∧ b.stbyArmed = false ∧
    (∀ j, Memory.read b.rx0 j = 0x00) ∧ (∀ j, Memory.read b.rx1 j = 0x00) ∧
    (∀ j, Memory.read b.cap j = 0x00) ∧ (∀ p i, b.pageWordAt p i = 0x0000)

/-- 70_reset_and_hazards.md R290. The reset edge as an input of the queue and the level that is held are
the model's own choice (log entry 7). -/
def Obligations.ResetInputRestoresEveryElement : Prop :=
  (∀ s rest, s.inputs = .reset true :: rest →
    step s = .next { s with block := Block.reset, inputs := rest, inReset := true, report := none }) ∧
  (∀ s rest, s.inputs = .reset false :: rest →
    step s = .next { s with inputs := rest, inReset := false, report := none }) ∧
  (∀ s p w rest, s.inputs = .op p w :: rest → s.inReset = true →
    step s = .next { s with inputs := rest, report := none })

/-- 70_reset_and_hazards.md R291: which operations are enabled after reset, the first poll, `DATA_AVAIL`
and the pages. -/
def Obligations.AfterResetOnlyHostAndPollRun : Prop :=
  ∀ c : Config,
    (∀ i : Instr, i.wf c = true → (i.op.agent = .host ∨ i.op = .evPoll) →
      ∃ t r, exec i (State.resetWith c) = .next t ∧ t.report = some ⟨.accepted, r⟩) ∧
    (∀ i : Instr, i.op.agent ≠ .host → i.op ≠ .evPoll →
      exec i (State.resetWith c) =
          .next { State.resetWith c with report := some ⟨.drop, none⟩ } ∨
        exec i (State.resetWith c) = .refused (.notEnabled i.op)) ∧
    (∀ lv, ∃ t, exec (.evPoll lv) (State.resetWith c) = .next t ∧
      t.block.flag .pwr = levelPower lv ∧ t.block.flag .stby = levelStandby lv ∧
      t.block.stbyArmed = levelStandby lv ∧ t.block.flag .red = levelRed lv ∧
      t.block.flag .white = levelWhite lv ∧
      t.block.capturing = (levelRed lv || levelWhite lv)) ∧
    (State.resetWith c).block.dataAvail = false ∧
    (∀ p x, (State.resetWith c).block.pageWordAt p x = 0x0000)

/-! ## Encoding -/

/-- Every well-formed operation is read back from its word on its agent's port, with every operand
(30_encoding.md R90 to R95). -/
def Obligations.DecodeOfEncodeIsTheInstruction : Prop :=
  ∀ (c : Config) (i : Instr), i.wf c = true → decode c i.op.agent.port (encode i) = .ok i

/-- A word has one meaning: it is the word of the operation it decodes to, which is well formed and
belongs to the port (30_encoding.md R90 to R95). -/
def Obligations.EncodeOfDecodeIsTheWord : Prop :=
  ∀ (c : Config) (p : Port) (w : OpWord) (i : Instr), decode c p w = .ok i →
    encode i = w ∧ i.op.agent.port = p ∧ i.wf c = true

/-- 30_encoding.md R96 and 60_exceptions.md R260: which words are illegal, with the code of the first
check that fails, in R96's own ranges; what an illegal word does and what it does not. That the response
goes by the port and not by the class, where 30_encoding.md R98 speaks of a class-H word, is the model's
reading (log entry 10, DEDUCED); the queue is log entry 1. -/
def Obligations.IllegalWordsRaiseTheFirstFailingCode : Prop :=
  (∀ c p w, firstFailedCheck c p w = none → ∃ i, decode c p w = .ok i) ∧
  (∀ c p w e, firstFailedCheck c p w = some e → decode c p w = .error e) ∧
  (∀ s w rest e, s.inputs = .op .host w :: rest → s.inReset = false →
    firstFailedCheck s.cfg .host w = some e →
    step s = .next { s with
      inputs := rest
      report := some ⟨.illegal e, some (match e with
        | .opcode => 1 | .port => 2 | .reserved => 3 | .operand => 4 | .range => 5)⟩ }) ∧
  (∀ s w rest e, s.inputs = .op .event w :: rest → s.inReset = false →
    firstFailedCheck s.cfg .event w = some e →
    step s = .next { s with inputs := rest, report := some ⟨.illegal e, none⟩ })

/-- 30_encoding.md R94, last paragraph: match and mask select at most one row, every decoded word matches
its operation's row, and a word that matches a row is that row's operation on the port of its class
(R91). -/
def Obligations.RowsAreDisjointAndMatched : Prop :=
  (∀ (w : OpWord) (a b : Op), w &&& a.maskBits = a.matchBits → w &&& b.maskBits = b.matchBits → a = b) ∧
  (∀ c p w i, decode c p w = .ok i → w &&& i.op.maskBits = i.op.matchBits) ∧
  (∀ c w (o : Op), w &&& o.maskBits = o.matchBits →
    (∃ i, i.op = o ∧ decode c o.agent.port w = .ok i) ∨
    (o = .hostReadPage ∧ decode c .host w = .error .range))

/-- 30_encoding.md R101: the worked encodings, both ways, and their texts. -/
def Obligations.WorkedEncodings : Prop :=
  decode Config.standard .host 0x01000000 = .ok .crcInit ∧
  decode Config.standard .host 0x02000002 = .ok (.crcByte 0x02) ∧
  decode Config.standard .host 0x0400F931 = .ok (.crcCheck 0xF931) ∧
  decode Config.standard .event 0x120000A5 = .ok (.evBulkByte 0xA5) ∧
  decode Config.standard .event 0x2000FFFE = .ok (.evRegDone 0xFFFE) ∧
  decode Config.standard .event 0x30000004 = .ok (.evPoll 0b0100) ∧
  decode Config.standard .host 0x52000201 = .ok (.hostWriteCmd 0x0201) ∧
  decode Config.standard .host 0x53000001 = .ok (.hostSetLock true) ∧
  decode Config.standard .host 0x5400056A = .ok (.hostReadPage 5 106) ∧
  encode .crcInit = 0x01000000 ∧ encode (.crcByte 0x02) = 0x02000002 ∧
  encode (.crcCheck 0xF931) = 0x0400F931 ∧ encode (.evBulkByte 0xA5) = 0x120000A5 ∧
  encode (.evRegDone 0xFFFE) = 0x2000FFFE ∧ encode (.evPoll 0b0100) = 0x30000004 ∧
  encode (.hostWriteCmd 0x0201) = 0x52000201 ∧ encode (.hostSetLock true) = 0x53000001 ∧
  encode (.hostReadPage 5 106) = 0x5400056A ∧
  traceText .crcInit = "CRC_INIT" ∧ traceText (.crcByte 0x02) = "CRC_BYTE 0x02" ∧
  traceText (.crcCheck 0xF931) = "CRC_CHECK 0xF931" ∧
  traceText (.evBulkByte 0xA5) = "EV_BULK_BYTE 0xA5" ∧
  traceText (.evRegDone 0xFFFE) = "EV_REG_DONE 0xFFFE" ∧
  traceText (.evPoll 0b0100) = "EV_POLL 0b0100" ∧
  traceText (.hostWriteCmd 0x0201) = "HOST_WRITE_CMD 0x0201" ∧
  traceText (.hostSetLock true) = "HOST_SET_LOCK 1" ∧
  traceText (.hostReadPage 5 106) = "HOST_READ_PAGE 5, 106"

/-! ## Steps -/

/-- When the word at the head of the queue decodes, a step is the operation on the state that has the
word taken off. What the step adds: an operation that has no transition leaves the block as it is and
its outcome is reported (log entry 3); with no input nothing changes (log entry 2). No operation ends as
not modelled. -/
def Obligations.StepRunsTheDecodedOperation : Prop :=
  (∀ s p w rest i, s.inputs = .op p w :: rest → s.inReset = false → decode s.cfg p w = .ok i →
    (∀ t, exec i { s with inputs := rest } = .next t → step s = .next t) ∧
    (∀ f, exec i { s with inputs := rest } = .fault f → step s = .fault f) ∧
    (∀ o, exec i { s with inputs := rest } = .refused (.notEnabled o) →
      step s = .next { s with inputs := rest, report := some ⟨.notEnabled, none⟩ }) ∧
    (∀ m, exec i { s with inputs := rest } ≠ .refused (.notModelled m))) ∧
  (∀ s, s.inputs = [] → step s = .next s)

/-- 20_memory.md R69 and R71: the steps that take a queue of well-formed operations perform them one by
one in their order, and what is queued behind them is left there. That words stand in one queue, taken
oldest first, is the model's choice (log entry 1). -/
def Obligations.QueueRunsOneOperationAtATime : Prop :=
  ∀ (is : List Instr) (s : State) (rest : List Input),
    s.inputs = is.map arrival ++ rest → s.inReset = false → (∀ i ∈ is, i.wf s.cfg = true) →
    Host.Core.run Sys2Proof.core is.length s = performAll is { s with inputs := rest } ∧
    ∀ t, performAll is { s with inputs := rest } = .next t → t.inputs = rest

/-- 10_state.md R46 at reset, with the canonical memories of the model (log entry 9). -/
def Obligations.ResetSatisfiesTheInvariants : Prop :=
  State.reset.Inv ∧ ∀ c : Config, c.wf → (State.resetWith c).Inv

/-- 10_state.md R46: every step keeps the invariants, from every state that has them. -/
def Obligations.StepKeepsTheInvariants : Prop :=
  ∀ s t : State, s.Inv → step s = .next t → t.Inv

/-- 60_exceptions.md R261: no operation stops the machine. The one fault is the model's own and needs a
position outside the receive buffer (log entry 8), which the invariant rules out. -/
def Obligations.NoStepStopsTheMachine : Prop :=
  (∀ s : State, s.Inv → ∃ t, step s = .next t) ∧
  (∀ i s f, exec i s = .fault f ↔
    f = .rxIndexOutOfRange ∧ (∃ v, i = .evBulkByte v) ∧ s.block.bulkSt = .xfer ∧
      s.cfg.frameLen ≤ s.block.bulkPos.toNat)

/-- 45_host.md R230 and 60_exceptions.md R270, over all words: the host port writes no capture, detector
or parser state and clears no status flag but `MP` and `PF`; the event port writes neither the CRC nor
the lock nor `CMD[15:8]`, and of `CMD.BTN_REQ` it can only make zero. -/
def Obligations.PortsKeepToTheirOwnState : Prop :=
  (∀ s t w rest, s.inputs = .op .host w :: rest → s.inReset = false → step s = .next t →
    (∀ e, e ∉ ([.crc, .statusFlag .mp, .statusFlag .pf, .unreadStatus, .cmdBtnReq, .cmdHigh,
        .snapshotLocked, .unreadSnapshot] : List Element) → s.block.agree t.block e) ∧
    (t.block.flag .mp = true → s.block.flag .mp = true) ∧
    (t.block.flag .pf = true → s.block.flag .pf = true)) ∧
  (∀ s t w rest, s.inputs = .op .event w :: rest → s.inReset = false → step s = .next t →
    s.block.agree t.block .crc ∧ s.block.agree t.block .snapshotLocked ∧
    s.block.agree t.block .cmdHigh ∧
    (t.block.btnReq = s.block.btnReq ∨ t.block.btnReq = 0x00))

/-! ## CRC unit -/

/-- 40_crc.md R114. -/
def Obligations.CrcInitRule : Prop :=
  RowEncodes .host 0x01000000 0xFFFF (fun _ => .crcInit) ∧
  ∀ s : State, exec .crcInit s = .next { s with
    block := { s.block with crc := 0xFFFF }, report := some ⟨.accepted, some 0x0000⟩ }

/-- 40_crc.md R115, with the update of R112. -/
def Obligations.CrcByteRule : Prop :=
  RowEncodes .host 0x02000000 0xFF00 (fun d => .crcByte (d.extractLsb' 0 8)) ∧
  ∀ (b : Byte) (s : State), exec (.crcByte b) s = .next { s with
    block := { s.block with
      crc := (s.block.crc >>> 8) ^^^
        crcTable (((s.block.crc ^^^ b.setWidth 16) &&& 0x00FF).setWidth 8) }
    report := some ⟨.accepted, some 0x0000⟩ }

/-- 40_crc.md R116. -/
def Obligations.CrcReadRule : Prop :=
  RowEncodes .host 0x03000000 0xFFFF (fun _ => .crcRead) ∧
  ∀ s : State, exec .crcRead s = .next { s with report := some ⟨.accepted, some s.block.crc⟩ }

/-- 40_crc.md R117. -/
def Obligations.CrcCheckRule : Prop :=
  RowEncodes .host 0x04000000 0x0000 (fun d => .crcCheck d) ∧
  ∀ (t : Word) (s : State),
    (s.block.crc = t → exec (.crcCheck t) s =
      .next { s with report := some ⟨.accepted, some 0x0001⟩ }) ∧
    (s.block.crc ≠ t → exec (.crcCheck t) s =
      .next { s with report := some ⟨.accepted, some 0x0000⟩ })

/-- 40_crc.md R111: entry `n` is what the rule's loop of eight rounds gives, and the 256 entries are the
ones section 6 lists. -/
def Obligations.TableIsTheListedOne : Prop :=
  (∀ n : Byte, crcTable n =
    (fun c : Word => if c.getLsbD 0 = true then (c >>> 1) ^^^ 0xA001 else c >>> 1)^[8]
      (n.setWidth 16)) ∧
  crcTableListed.length = 256 ∧
  ∀ n : Nat, n < 256 → crcTableListed.getD n 0 = crcTable (BitVec.ofNat 8 n)

/-- 40_crc.md R113, for all 2^24 pairs: the update equals the rule's bitwise loop, and so does the
model's name for it. -/
def Obligations.TableUpdateEqualsBitwiseUpdate : Prop :=
  ∀ (c : Word) (b : Byte),
    crcUpdate c b =
      (fun c : Word => if c.getLsbD 0 = true then (c >>> 1) ^^^ 0xA001 else c >>> 1)^[8]
        (c ^^^ b.setWidth 16) ∧
    crcUpdateBitwise c b = crcUpdate c b

/-- 40_crc.md R118: the operations `CRC_FRAME m`, `CRC_READ` respond `crc16(m)`, in every state. -/
def Obligations.CrcFrameThenReadRespondsCrc16 : Prop :=
  (∀ (m : List Byte) (s : State), performAll (crcFrameOps m ++ [.crcRead]) s = .next { s with
    block := { s.block with crc := crc16 m }, report := some ⟨.accepted, some (crc16 m)⟩ }) ∧
  crc16 [] = 0xFFFF ∧
  ∀ (m : List Byte) (b : Byte), crc16 (m ++ [b]) = crcUpdate (crc16 m) b

/-- 40_crc.md R123: the residue of every generated frame is zero, and the residue test accepts exactly
the frames the trailer comparison accepts. -/
def Obligations.ResidueIsZero : Prop :=
  (∀ m : List Byte, crc16 (frameGenerate m) = 0x0000) ∧
  ∀ f : List Byte, 2 ≤ f.length → (crc16 f = 0x0000 ↔ trailerMatches f)

/-- 40_crc.md R124: generation and validation agree, and every single-bit error in the payload or in the
trailer is detected. -/
def Obligations.SingleBitErrorsAreDetected : Prop :=
  (∀ m : List Byte, trailerMatches (frameGenerate m)) ∧
  ∀ (m : List Byte) (j k : Nat), j < (frameGenerate m).length → k < 8 →
    ¬ trailerMatches (flipBit (frameGenerate m) j k)

/-- 40_crc.md R119, R121 and R125: the layout of a generated request, and the order of the three checks. -/
def Obligations.FrameValidateChecksInOrder : Prop :=
  (∀ m : List Byte, frameGenerate m =
    m ++ [(crc16 m).extractLsb' 0 8, (crc16 m).extractLsb' 8 8]) ∧
  (∀ (f : List Byte) (addr : Byte) (n : Nat), 2 ≤ n →
    (f.length ≠ n → frameValidate f addr n = .dropLength) ∧
    (f.length = n → f.getD 0 0 ≠ addr → frameValidate f addr n = .dropAddress) ∧
    (f.length = n → f.getD 0 0 = addr →
      crc16 (f.take (n - 2)) ≠
        ((f.getD (n - 2) 0).setWidth 16 ||| (f.getD (n - 1) 0).setWidth 16 <<< 8) →
      frameValidate f addr n = .dropCrc) ∧
    (f.length = n → f.getD 0 0 = addr →
      crc16 (f.take (n - 2)) =
        ((f.getD (n - 2) 0).setWidth 16 ||| (f.getD (n - 1) 0).setWidth 16 <<< 8) →
      frameValidate f addr n = .ok)) ∧
  (∀ (addr fc : Byte) (reg val : Word),
    requestFrame addr fc reg val = frameGenerate [addr, fc, reg.extractLsb' 8 8,
      reg.extractLsb' 0 8, val.extractLsb' 8 8, val.extractLsb' 0 8] ∧
    (requestFrame addr fc reg val).length = 8 ∧ Config.reqLen = 8 ∧
    frameValidate (requestFrame addr fc reg val) addr Config.reqLen = .ok)

/-- 45_host.md R243, row "every request": the operations that check a received frame respond 1 exactly
when its trailer is right. -/
def Obligations.CheckingARequestRespondsItsVerdict : Prop :=
  ∀ (f : List Byte) (s : State),
    (trailerMatches f → ∃ t, performAll (checkRequestOps f) s = .next t ∧
      t.report = some ⟨.accepted, some 0x0001⟩) ∧
    (¬ trailerMatches f → ∃ t, performAll (checkRequestOps f) s = .next t ∧
      t.report = some ⟨.accepted, some 0x0000⟩)

/-! ## Bulk capture path -/

/-- 41_bulk_capture.md R141. -/
def Obligations.FrameEdgeRule : Prop :=
  RowEncodes .event 0x10000000 0xFFFF (fun _ => .evFrameEdge) ∧
  ∀ s : State,
    (s.block.bulkSt = .sync → exec .evFrameEdge s = .next { s with
      block := { s.block with bulkSt := .settle, settleArmed := true }
      report := some ⟨.accepted, none⟩ }) ∧
    (s.block.bulkSt ≠ .sync →
      exec .evFrameEdge s = .next { s with report := some ⟨.drop, none⟩ })

/-- 41_bulk_capture.md R142. -/
def Obligations.SettleExpireRule : Prop :=
  RowEncodes .event 0x11000000 0xFFFF (fun _ => .evSettleExpire) ∧
  ∀ s : State,
    (s.block.settleArmed = true → exec .evSettleExpire s = .next { s with
      block := { s.block with
        settleArmed := false, bulkSt := .xfer, bulkPos := 0, bulkWdtArmed := true }
      report := some ⟨.accepted, none⟩ }) ∧
    (s.block.settleArmed = false →
      exec .evSettleExpire s = .refused (.notEnabled .evSettleExpire))

/-- 41_bulk_capture.md R143, with R145 (the compare) and R146 (the previous frame). -/
def Obligations.BulkByteRule : Prop :=
  RowEncodes .event 0x12000000 0xFF00 (fun d => .evBulkByte (d.extractLsb' 0 8)) ∧
  (∀ (v : Byte) (s : State), s.block.bulkSt ≠ .xfer →
    exec (.evBulkByte v) s = .next { s with report := some ⟨.drop, none⟩ }) ∧
  (∀ (v : Byte) (s : State), s.block.bulkSt = .xfer →
    s.block.bulkPos.toNat + 1 < s.cfg.frameLen →
    Memory.wf (s.block.rx s.block.bulkAct) = true →
    ∃ t, exec (.evBulkByte v) s = .next t ∧ t.report = some ⟨.accepted, none⟩ ∧
      (∀ j, Memory.read (t.block.rx s.block.bulkAct) j =
        if j = s.block.bulkPos.toNat then v else Memory.read (s.block.rx s.block.bulkAct) j) ∧
      t.block.bulkPos = s.block.bulkPos + 1 ∧
      (∀ e, e ∉ ([.rxbuf s.block.bulkAct, .bulkPos] : List Element) → s.block.agree t.block e)) ∧
  (∀ (v : Byte) (s : State), s.block.bulkSt = .xfer →
    s.block.bulkPos.toNat + 1 = s.cfg.frameLen →
    Memory.wf (s.block.rx s.block.bulkAct) = true → Memory.wf s.block.cap = true →
    ∃ t, exec (.evBulkByte v) s = .next t ∧ t.report = some ⟨.accepted, none⟩ ∧
      (∀ j, Memory.read (t.block.rx s.block.bulkAct) j =
        if j = s.block.bulkPos.toNat then v else Memory.read (s.block.rx s.block.bulkAct) j) ∧
      t.block.bulkAct = s.block.bulkAct.other ∧ t.block.bulkPos = 0 ∧
      t.block.bulkWdtArmed = true ∧ t.block.flag .bulkLive = true ∧
      t.block.unreadStatus = (s.block.unreadStatus || !s.block.flag .bulkLive) ∧
      (s.block.capturePending = false →
        (∃ j, j < s.cfg.frameLen ∧ Memory.read (t.block.rx s.block.bulkAct) j ≠
          Memory.read (s.block.rx s.block.bulkAct.other) j) →
        t.block.capturePending = true ∧
        ∀ j, Memory.read t.block.cap j =
          if j < s.cfg.frameLen then Memory.read (t.block.rx s.block.bulkAct) j
          else Memory.read s.block.cap j) ∧
      ((s.block.capturePending = true ∨ ∀ j, j < s.cfg.frameLen →
          Memory.read (t.block.rx s.block.bulkAct) j =
          Memory.read (s.block.rx s.block.bulkAct.other) j) →
        t.block.capturePending = s.block.capturePending ∧
        ∀ j, Memory.read t.block.cap j = Memory.read s.block.cap j) ∧
      (∀ e, e ∉ ([.rxbuf s.block.bulkAct, .bulkPos, .capbuf, .capturePending, .bulkAct,
          .bulkWdtArmed, .statusFlag .bulkLive, .unreadStatus] : List Element) →
        s.block.agree t.block e))

/-- 41_bulk_capture.md R144, with the note of 10_state.md R35. -/
def Obligations.BulkWatchdogRule : Prop :=
  RowEncodes .event 0x13000000 0xFFFF (fun _ => .evBulkWdtExpire) ∧
  ∀ s : State,
    (s.block.bulkWdtArmed = true → ∃ t, exec .evBulkWdtExpire s = .next t ∧
      t.report = some ⟨.accepted, none⟩ ∧ t.block.bulkWdtArmed = false ∧
      t.block.flag .bulkLive = false ∧ t.block.bulkSt = .sync ∧ t.block.bulkPos = 0 ∧
      t.block.unreadStatus = (s.block.unreadStatus || s.block.flag .bulkLive) ∧
      (∀ e, e ∉ ([.bulkWdtArmed, .statusFlag .bulkLive, .bulkSt, .bulkPos, .unreadStatus] :
        List Element) → s.block.agree t.block e)) ∧
    (s.block.bulkWdtArmed = false →
      exec .evBulkWdtExpire s = .refused (.notEnabled .evBulkWdtExpire))

/-- 41_bulk_capture.md R143 and R148, 70_reset_and_hazards.md R295: a frame is the `FRAME_LEN` bytes
from the transfer start; when they have all come, the half holds them in order, the other half is the
next one, and the frame is copied exactly when it differs from that other half and nothing is pending. -/
def Obligations.WholeFrameTransfer : Prop :=
  ∀ (m : List Byte) (s : State), s.cfg.wf → m.length = s.cfg.frameLen →
    s.block.bulkSt = .xfer → s.block.bulkPos = 0 →
    Memory.wf s.block.rx0 = true → Memory.wf s.block.rx1 = true → Memory.wf s.block.cap = true →
    ∃ t, performAll (m.map .evBulkByte) s = .next t ∧
      Holds (t.block.rx s.block.bulkAct) m ∧ t.block.bulkAct = s.block.bulkAct.other ∧
      t.block.bulkSt = .xfer ∧ t.block.bulkPos = 0 ∧ t.block.bulkWdtArmed = true ∧
      t.block.flag .bulkLive = true ∧
      (∀ j, Memory.read (t.block.rx s.block.bulkAct.other) j =
        Memory.read (s.block.rx s.block.bulkAct.other) j) ∧
      (s.block.capturePending = false → ¬ Holds (s.block.rx s.block.bulkAct.other) m →
        t.block.capturePending = true ∧ Holds t.block.cap m) ∧
      ((s.block.capturePending = true ∨ Holds (s.block.rx s.block.bulkAct.other) m) →
        t.block.capturePending = s.block.capturePending ∧
        ∀ j, Memory.read t.block.cap j = Memory.read s.block.cap j)

/-- 41_bulk_capture.md R147: a frame that completes while a capture is pending is not copied when it
comes again, however often, after the parser has cleared the flag. -/
def Obligations.RepeatedFrameIsNeverCopied : Prop :=
  ∀ (m : List Byte) (n : Nat) (s : State), s.Inv → m.length = s.cfg.frameLen →
    s.block.bulkSt = .xfer → s.block.bulkPos = 0 → s.block.capturePending = true →
    s.block.snapshotLocked = false →
    ∃ t, performAll (m.map .evBulkByte ++ [.parse] ++
        (List.replicate n (m.map .evBulkByte)).flatten) s = .next t ∧
      t.block.capturePending = false ∧
      ∀ j, Memory.read t.block.cap j = Memory.read s.block.cap j

/-! ## Register capture path -/

/-- 42_register_capture.md R171, with R172 (button byte), R173 (counter) and R174 (classification). -/
def Obligations.RegisterDoneRule : Prop :=
  RowEncodes .event 0x20000000 0x0000 (fun d => .evRegDone d) ∧
  (∀ (w : Word) (s : State), s.block.capturing = false →
    exec (.evRegDone w) s = .next { s with report := some ⟨.drop, none⟩ }) ∧
  (∀ (w : Word) (s : State), s.cfg.wf → s.block.capturing = true →
    let btn : Byte := (~~~w).extractLsb' 0 8
    let req : Byte := s.block.cmd.extractLsb' 0 8
    ∃ t, exec (.evRegDone w) s = .next t ∧ t.report = some ⟨.accepted, none⟩ ∧
      t.block.btn = btn ∧ t.block.flag .regLive = true ∧ t.block.regWdtArmed = true ∧
      (btn = req → t.block.mmCnt = 0) ∧
      (btn ≠ req →
        t.block.mmCnt.toNat = min (s.block.mmCnt.toNat + 1) s.cfg.mismatchLimit) ∧
      (btn ≠ req → t.block.mmCnt.toNat = s.cfg.mismatchLimit → btn = 0x00 → req ≠ 0x00 →
        t.block.flag .pf = true ∧ t.block.flag .mp = s.block.flag .mp) ∧
      (btn ≠ req → t.block.mmCnt.toNat = s.cfg.mismatchLimit → btn &&& ~~~req ≠ 0x00 →
        t.block.flag .mp = true ∧ t.block.flag .pf = s.block.flag .pf) ∧
      (btn = req ∨ t.block.mmCnt.toNat ≠ s.cfg.mismatchLimit ∨
          (btn ≠ 0x00 ∧ btn &&& ~~~req = 0x00) →
        t.block.flag .mp = s.block.flag .mp ∧ t.block.flag .pf = s.block.flag .pf) ∧
      t.block.unreadStatus =
        (s.block.unreadStatus || decide (t.block.status ≠ s.block.status)) ∧
      (∀ e, e ∉ ([.statusBtn, .statusFlag .regLive, .statusFlag .pf, .statusFlag .mp, .regWdtArmed,
          .mmCnt, .unreadStatus] : List Element) → s.block.agree t.block e)) ∧
  (∀ i s t, exec i s = .next t → t.block.mmCnt ≠ s.block.mmCnt →
    i.op = .evRegDone ∨ i.op = .evRegWdtExpire ∨ (i.op = .evPoll ∧ t.block.capturing = false))

/-- 42_register_capture.md R175: the fail-safe of a silent register interface. -/
def Obligations.RegisterWatchdogRule : Prop :=
  RowEncodes .event 0x21000000 0xFFFF (fun _ => .evRegWdtExpire) ∧
  ∀ s : State,
    (s.block.regWdtArmed = true → ∃ t, exec .evRegWdtExpire s = .next t ∧
      t.report = some ⟨.accepted, none⟩ ∧ t.block.regWdtArmed = false ∧
      t.block.flag .regLive = false ∧ t.block.btn = 0x00 ∧ t.block.btnReq = 0x00 ∧
      t.block.mmCnt = 0 ∧
      t.block.unreadStatus =
        (s.block.unreadStatus || decide (t.block.status ≠ s.block.status)) ∧
      (∀ e, e ∉ ([.regWdtArmed, .statusFlag .regLive, .statusBtn, .cmdBtnReq, .mmCnt,
        .unreadStatus] : List Element) → s.block.agree t.block e)) ∧
    (s.block.regWdtArmed = false →
      exec .evRegWdtExpire s = .refused (.notEnabled .evRegWdtExpire))

/-- 42_register_capture.md R177, item 1: from a cleared counter, fewer than `MISMATCH_LIMIT` mismatching
completions in a row set no fault flag, and the one that brings the count to the limit, or any after
it, sets the flag its classification gives. -/
def Obligations.FaultNeedsConsecutiveMismatches : Prop :=
  ∀ (ws : List Word) (s : State), s.cfg.wf → s.block.capturing = true → s.block.mmCnt = 0 →
    (∀ w ∈ ws, buttonByte w ≠ s.block.btnReq) →
    ∃ t, performAll (ws.map .evRegDone) s = .next t ∧
      t.block.mmCnt.toNat = min ws.length s.cfg.mismatchLimit ∧
      (ws.length < s.cfg.mismatchLimit →
        t.block.flag .mp = s.block.flag .mp ∧ t.block.flag .pf = s.block.flag .pf) ∧
      ∀ w : Word, s.cfg.mismatchLimit ≤ ws.length + 1 → buttonByte w ≠ s.block.btnReq →
        ∃ u, exec (.evRegDone w) t = .next u ∧
          (buttonByte w = 0x00 → s.block.btnReq ≠ 0x00 → u.block.flag .pf = true) ∧
          (buttonByte w &&& ~~~s.block.btnReq ≠ 0x00 → u.block.flag .mp = true)

/-- 42_register_capture.md R177, item 2, and 70_reset_and_hazards.md R300: a status read leaves the
counter, so while the mismatch persists the next completion sets the flag again. -/
def Obligations.StatusReadDoesNotMaskAFault : Prop :=
  ∀ (w : Word) (s : State), s.cfg.wf → s.block.capturing = true →
    s.block.mmCnt.toNat = s.cfg.mismatchLimit → buttonByte w ≠ s.block.btnReq →
    ∃ r t, exec .hostReadStatus s = .next r ∧ r.block.mmCnt = s.block.mmCnt ∧
      r.block.flag .mp = false ∧ r.block.flag .pf = false ∧
      exec (.evRegDone w) r = .next t ∧ t.block.mmCnt = s.block.mmCnt ∧
      (buttonByte w = 0x00 → s.block.btnReq ≠ 0x00 → t.block.flag .pf = true) ∧
      (buttonByte w &&& ~~~s.block.btnReq ≠ 0x00 → t.block.flag .mp = true)

/-! ## Detector -/

/-- 43_detector.md R191, with R193 (standby), R194 (capture start) and R195 (capture stop). -/
def Obligations.PollRule : Prop :=
  RowEncodes .event 0x30000000 0xFFF0 (fun d => .evPoll (d.extractLsb' 0 4)) ∧
  ∀ (lv : BitVec 4) (s : State),
    let prev := s.block.lastLvl
    ∃ t, exec (.evPoll lv) s = .next t ∧ t.report = some ⟨.accepted, none⟩ ∧
      t.block.lastLvl = lv ∧
      t.block.flag .pwr = (s.block.flag .pwr ^^ (lv.getLsbD 0 ^^ prev.getLsbD 0)) ∧
      t.block.flag .red = (s.block.flag .red ^^ (lv.getLsbD 2 ^^ prev.getLsbD 2)) ∧
      t.block.flag .white = (s.block.flag .white ^^ (lv.getLsbD 3 ^^ prev.getLsbD 3)) ∧
      t.block.flag .stby = (s.block.flag .stby || (!prev.getLsbD 1 && lv.getLsbD 1)) ∧
      t.block.stbyArmed = (s.block.stbyArmed || (!prev.getLsbD 1 && lv.getLsbD 1)) ∧
      ((t.block.flag .red || t.block.flag .white) = true → s.block.capturing = false →
        t.block.capturing = true ∧ t.block.bulkSt = .sync ∧ t.block.bulkPos = 0 ∧
        t.block.regWdtArmed = true ∧
        ∀ e ∈ ([.statusFlag .bulkLive, .statusFlag .regLive, .statusBtn, .cmdBtnReq, .mmCnt,
          .settleArmed, .bulkWdtArmed] : List Element), s.block.agree t.block e) ∧
      ((t.block.flag .red || t.block.flag .white) = false → s.block.capturing = true →
        t.block.capturing = false ∧ t.block.bulkSt = .idle ∧ t.block.bulkPos = 0 ∧
        t.block.settleArmed = false ∧ t.block.bulkWdtArmed = false ∧
        t.block.regWdtArmed = false ∧ t.block.flag .bulkLive = false ∧
        t.block.flag .regLive = false ∧ t.block.btn = 0x00 ∧ t.block.btnReq = 0x00 ∧
        t.block.mmCnt = 0) ∧
      ((t.block.flag .red || t.block.flag .white) = s.block.capturing →
        ∀ e ∈ ([.capturing, .bulkSt, .bulkPos, .settleArmed, .bulkWdtArmed, .regWdtArmed,
          .statusFlag .bulkLive, .statusFlag .regLive, .statusBtn, .cmdBtnReq, .mmCnt] :
          List Element), s.block.agree t.block e) ∧
      t.block.unreadStatus =
        (s.block.unreadStatus || decide (t.block.status ≠ s.block.status)) ∧
      (∀ e ∈ ([.statusFlag .mp, .statusFlag .pf, .cmdHigh, .crc, .capturePending, .snapshotLocked,
        .unreadSnapshot, .bulkAct, .rxbuf .zero, .rxbuf .one, .capbuf, .page] : List Element),
        s.block.agree t.block e)

/-- 43_detector.md R191, first corner case: a poll of the levels the last poll saw changes nothing. -/
def Obligations.PollOfTheSameLevelsChangesNothing : Prop :=
  ∀ s : State, s.Inv →
    exec (.evPoll s.block.lastLvl) s = .next { s with report := some ⟨.accepted, none⟩ }

/-- 43_detector.md R196. -/
def Obligations.StandbyExpireRule : Prop :=
  RowEncodes .event 0x31000000 0xFFFF (fun _ => .evStbyExpire) ∧
  ∀ s : State,
    (s.block.stbyArmed = true → ∃ t, exec .evStbyExpire s = .next t ∧
      t.report = some ⟨.accepted, none⟩ ∧ t.block.stbyArmed = false ∧
      t.block.flag .stby = false ∧
      t.block.unreadStatus = (s.block.unreadStatus || s.block.flag .stby) ∧
      (∀ e, e ∉ ([.stbyArmed, .statusFlag .stby, .unreadStatus] : List Element) →
        s.block.agree t.block e)) ∧
    (s.block.stbyArmed = false →
      exec .evStbyExpire s = .refused (.notEnabled .evStbyExpire))

/-- 10_state.md R41: only the detector starts and stops capturing. -/
def Obligations.OnlyPollsStartAndStopCapture : Prop :=
  ∀ i s t, exec i s = .next t → t.block.capturing ≠ s.block.capturing → ∃ lv, i = .evPoll lv

/-! ## Parser -/

/-- 44_parser.md R210, with the transform of R211. -/
def Obligations.ParseRule : Prop :=
  RowEncodes .event 0x40000000 0xFFFF (fun _ => .parse) ∧
  (∀ s : State, (s.block.capturePending = false ∨ s.block.snapshotLocked = true) →
    exec .parse s = .refused (.notEnabled .parse)) ∧
  (∀ s : State, s.cfg.wf → Memory.wf s.block.page = true → s.block.capturePending = true →
    s.block.snapshotLocked = false →
    ∃ t, exec .parse s = .next t ∧ t.report = some ⟨.accepted, none⟩ ∧
      (∀ p i, 1 ≤ p → p ≤ 5 → i < s.cfg.pageWords →
        let k := (p - 1) * s.cfg.pageWords + i
        let byteAt := fun j => if j < s.cfg.frameLen then Memory.read s.block.cap j else 0x00
        t.block.pageWordAt p i =
          ((byteAt (2 * k)).setWidth 16 ||| (byteAt (2 * k + 1)).setWidth 16 <<< 8)) ∧
      (∀ k, pageKeyOk s.cfg k = false →
        Memory.read t.block.page k = Memory.read s.block.page k) ∧
      t.block.capturePending = false ∧ t.block.unreadSnapshot = true ∧
      (∀ e, e ∉ ([.page, .capturePending, .unreadSnapshot] : List Element) →
        s.block.agree t.block e))

/-- 44_parser.md R212: the page contents after a parse depend on the frame alone. -/
def Obligations.ParseDependsOnTheFrameAlone : Prop :=
  ∀ s s' t t' : State, s.cfg.wf → s'.cfg = s.cfg →
    Memory.wf s.block.page = true → Memory.wf s'.block.page = true →
    (∀ j, j < s.cfg.frameLen → Memory.read s.block.cap j = Memory.read s'.block.cap j) →
    exec .parse s = .next t → exec .parse s' = .next t' →
    ∀ p i, 1 ≤ p → p ≤ 5 → i < s.cfg.pageWords → t.block.pageWordAt p i = t'.block.pageWordAt p i

/-- 44_parser.md R214: where a frame byte stands after the parse. -/
def Obligations.FrameByteIsAtItsPageWord : Prop :=
  ∀ s t : State, s.cfg.wf → Memory.wf s.block.page = true → exec .parse s = .next t →
    ∀ j, j < s.cfg.frameLen → j < 2 * 5 * s.cfg.pageWords →
      let k := j / 2
      let w := t.block.pageWordAt (k / s.cfg.pageWords + 1) (k % s.cfg.pageWords)
      (j % 2 = 0 → w.extractLsb' 0 8 = Memory.read s.block.cap j) ∧
      (j % 2 = 1 → w.extractLsb' 8 8 = Memory.read s.block.cap j)

/-- 20_memory.md R74: between a lock and the next unlock no operation writes a page, and every page read
responds the same contents. -/
def Obligations.LockedSnapshotIsStable : Prop :=
  ∀ (is : List Instr) (s t : State), s.block.snapshotLocked = true →
    (∀ i ∈ is, i ≠ .hostSetLock false) → performAll is s = .next t →
    t.block.snapshotLocked = true ∧ t.block.page = s.block.page ∧
    ∀ p i, pageInRange s.cfg p i = true →
      exec (.hostReadPage p i) t = .next { t with
        report := some ⟨.accepted, some (s.block.pageWordAt p.toNat i.toNat)⟩ }

/-- 20_memory.md R62 and R73: a pending frame is kept until the parser has taken it, and a frame is
copied only when none is pending. -/
def Obligations.PendingFrameIsKeptForTheParser : Prop :=
  ∀ i s t, exec i s = .next t →
    (s.block.capturePending = true → t.block.cap = s.block.cap) ∧
    (s.block.capturePending = true → t.block.capturePending = false → i = .parse) ∧
    (t.block.cap ≠ s.block.cap → (∃ v, i = .evBulkByte v) ∧ s.block.capturePending = false ∧
      t.block.capturePending = true) ∧
    (s.block.capturePending = false → t.block.capturePending = true → ∃ v, i = .evBulkByte v)

/-- 60_exceptions.md R265, item 3: the order of `PARSE` and `HOST_SET_LOCK 1` decides what the pages
hold; both orders are runs. -/
def Obligations.OrderDecidesParseAgainstLock : Prop :=
  ∀ s : State, s.block.capturePending = true → s.block.snapshotLocked = false →
    (∃ t p, exec .parse s = .next p ∧ performAll [.parse, .hostSetLock true] s = .next t ∧
      t.block.page = p.block.page ∧ t.block.capturePending = false ∧
      t.block.unreadSnapshot = true ∧ t.block.snapshotLocked = true) ∧
    (∃ t, performAll [.hostSetLock true, .parse] s = .next t ∧ t.block.page = s.block.page ∧
      t.block.capturePending = true ∧ t.block.unreadSnapshot = s.block.unreadSnapshot ∧
      t.block.snapshotLocked = true)

/-! ## Host operations -/

/-- 45_host.md R231. -/
def Obligations.ReadStatusRule : Prop :=
  RowEncodes .host 0x50000000 0xFFFF (fun _ => .hostReadStatus) ∧
  ∀ s : State, ∃ t, exec .hostReadStatus s = .next t ∧
    t.report = some ⟨.accepted, some s.block.status⟩ ∧
    t.block.flag .mp = false ∧ t.block.flag .pf = false ∧ t.block.unreadStatus = false ∧
    (∀ e, e ∉ ([.statusFlag .mp, .statusFlag .pf, .unreadStatus] : List Element) →
      s.block.agree t.block e)

/-- 45_host.md R232. -/
def Obligations.ReadCommandRule : Prop :=
  RowEncodes .host 0x51000000 0xFFFF (fun _ => .hostReadCmd) ∧
  ∀ s : State, exec .hostReadCmd s = .next { s with report := some ⟨.accepted, some s.block.cmd⟩ }

/-- 45_host.md R233. -/
def Obligations.WriteCommandRule : Prop :=
  RowEncodes .host 0x52000000 0x0000 (fun d => .hostWriteCmd d) ∧
  ∀ (w : Word) (s : State), exec (.hostWriteCmd w) s = .next { s with
    block := { s.block with cmd := w }, report := some ⟨.accepted, some w⟩ }

/-- 45_host.md R234. -/
def Obligations.SetLockRule : Prop :=
  RowEncodes .host 0x53000000 0xFFFE (fun d => .hostSetLock (d.getLsbD 0)) ∧
  ∀ (e : Bool) (s : State), exec (.hostSetLock e) s = .next { s with
    block := { s.block with snapshotLocked := e }, report := some ⟨.accepted, some 0x0000⟩ }

/-- 45_host.md R235: the page word of an index in range, and `E_RANGE` outside, which changes nothing. -/
def Obligations.ReadPageRule : Prop :=
  RowEncodes .host 0x54000000 0x0000
    (fun d => .hostReadPage (d.extractLsb' 8 8) (d.extractLsb' 0 8)) ∧
  (∀ (p i : Byte) (s : State), 1 ≤ p.toNat → p.toNat ≤ 5 → i.toNat < s.cfg.pageWords →
    exec (.hostReadPage p i) s = .next { s with
      report := some ⟨.accepted, some (s.block.pageWordAt p.toNat i.toNat)⟩ }) ∧
  (∀ (p i : Byte) (s : State), (p.toNat < 1 ∨ 5 < p.toNat ∨ s.cfg.pageWords ≤ i.toNat) →
    exec (.hostReadPage p i) s = .next { s with report := some ⟨.illegal .range, some 5⟩ } ∧
    decode s.cfg .host (0x54000000 ||| p.setWidth 32 <<< 8 ||| i.setWidth 32) = .error .range)

/-- 45_host.md R236. -/
def Obligations.ClearUnreadSnapshotRule : Prop :=
  RowEncodes .host 0x55000000 0xFFFF (fun _ => .hostClearUnreadSnap) ∧
  ∀ s : State, exec .hostClearUnreadSnap s = .next { s with
    block := { s.block with unreadSnapshot := false }, report := some ⟨.accepted, some 0x0000⟩ }

/-- 45_host.md R237, each bit of the response equal to the element 10_state.md R43 names for it. -/
def Obligations.ReadFlagsRule : Prop :=
  RowEncodes .host 0x56000000 0xFFFF (fun _ => .hostReadFlags) ∧
  ∀ s : State, ∃ v : Word, exec .hostReadFlags s = .next { s with
      report := some ⟨.accepted, some v⟩ } ∧
    v.getLsbD 0 = s.block.capturePending ∧ v.getLsbD 1 = s.block.snapshotLocked ∧
    v.getLsbD 2 = s.block.unreadStatus ∧ v.getLsbD 3 = s.block.unreadSnapshot ∧
    v.getLsbD 4 = (s.block.unreadStatus || s.block.unreadSnapshot) ∧
    v.getLsbD 5 = s.block.capturing ∧
    v.extractLsb' 6 2 = (match s.block.bulkSt with
      | .idle => (0 : BitVec 2) | .sync => 1 | .settle => 2 | .xfer => 3) ∧
    v.getLsbD 8 = s.block.settleArmed ∧ v.getLsbD 9 = s.block.bulkWdtArmed ∧
    v.getLsbD 10 = s.block.regWdtArmed ∧ v.getLsbD 11 = s.block.stbyArmed ∧
    v.extractLsb' 12 3 = s.block.mmCnt ∧
    v.getLsbD 15 = (match s.block.bulkAct with | .zero => false | .one => true)

/-- 45_host.md R238, each field of the response equal to the element 10_state.md R43 names for it. -/
def Obligations.ReadDiagRule : Prop :=
  RowEncodes .host 0x57000000 0xFFFF (fun _ => .hostReadDiag) ∧
  ∀ s : State, ∃ v : Word, exec .hostReadDiag s = .next { s with
      report := some ⟨.accepted, some v⟩ } ∧
    v.extractLsb' 0 11 = s.block.bulkPos ∧ v.extractLsb' 11 4 = s.block.lastLvl ∧
    v.getLsbD 15 = false

/-! ## Whole machine -/

/-- The frame of every operation: what its rule's pseudocode and "Flags written" do not name keeps its
value (00_scope.md R7: "An element that a rule does not write keeps its value"), and so do the model's
own fields but the report. Inside the memories an operation writes: `EV_BULK_BYTE` stores at
`RXBUF[BULK_ACT][BULK_POS]` and nowhere else in either half (20_memory.md R61), it writes `CAPBUF` inside
the frame and only where a transfer completes with nothing pending (R62), and `PARSE` writes the indexes
of `PG` (R63). -/
def Obligations.EveryOperationWritesOnlyItsElements : Prop :=
  (∀ i s t, exec i s = .next t →
    (∀ e, e ∉ opWrites i.op → s.block.agree t.block e) ∧
    t.cfg = s.cfg ∧ t.inputs = s.inputs ∧ t.inReset = s.inReset) ∧
  (∀ v s t, exec (.evBulkByte v) s = .next t →
    (∀ j, Memory.read (t.block.rx s.block.bulkAct.other) j =
      Memory.read (s.block.rx s.block.bulkAct.other) j) ∧
    (∀ j, (j ≠ s.block.bulkPos.toNat ∨ s.block.bulkSt ≠ .xfer) →
      Memory.read (t.block.rx s.block.bulkAct) j = Memory.read (s.block.rx s.block.bulkAct) j) ∧
    (∀ j, (s.cfg.frameLen ≤ j ∨ s.block.bulkPos.toNat + 1 < s.cfg.frameLen ∨
        s.block.capturePending = true ∨ s.block.bulkSt ≠ .xfer) →
      Memory.read t.block.cap j = Memory.read s.block.cap j)) ∧
  (∀ s t, exec .parse s = .next t → ∀ k, k ∉ pageKeys s.cfg →
    Memory.read t.block.page k = Memory.read s.block.page k)

/-- 10_state.md R35: `UNREAD_STATUS` is set by an accepted event that changes `STATUS`, and by nothing
else. -/
def Obligations.UnreadStatusFollowsStatusChanges : Prop :=
  (∀ i s t, i.op.agent ≠ .host → exec i s = .next t → t.report = some ⟨.accepted, none⟩ →
    t.block.unreadStatus = (s.block.unreadStatus || decide (t.block.status ≠ s.block.status))) ∧
  (∀ s t : State, step s = .next t → s.block.unreadStatus = false → t.block.unreadStatus = true →
    t.block.status ≠ s.block.status ∧ t.report = some ⟨.accepted, none⟩ ∧
    ∃ w rest, s.inputs = .op .event w :: rest)

/-- 60_exceptions.md R263: the enable table, what a disabled event does, and that a timer or parser event
acknowledges itself. -/
def Obligations.EventsRunExactlyWhenEnabled : Prop :=
  ∀ (i : Instr) (s : State), i.op.agent ≠ .host → s.block.bulkPos.toNat < s.cfg.frameLen →
    (opEnabled s.block i.op = true →
      ∃ t, exec i s = .next t ∧ t.report = some ⟨.accepted, none⟩ ∧
        (opPhysical i.op = false → opEnabled t.block i.op = false)) ∧
    (opEnabled s.block i.op = false → opPhysical i.op = true →
      exec i s = .next { s with report := some ⟨.drop, none⟩ }) ∧
    (opEnabled s.block i.op = false → opPhysical i.op = false →
      exec i s = .refused (.notEnabled i.op))

/-- 60_exceptions.md R264: when `DATA_AVAIL` rises and when it falls. -/
def Obligations.DataAvailRisesAndFalls : Prop :=
  (∀ b : Block, b.dataAvail = (b.unreadStatus || b.unreadSnapshot)) ∧
  (∀ i s t, exec i s = .next t → s.block.dataAvail = false → t.block.dataAvail = true →
    i = .parse ∨ (i.op.agent ≠ .host ∧ t.block.status ≠ s.block.status)) ∧
  (∀ i s t, exec i s = .next t → s.block.dataAvail = true → t.block.dataAvail = false →
    i = .hostReadStatus ∨ i = .hostClearUnreadSnap) ∧
  (∀ i s t, i.op.agent ≠ .host → exec i s = .next t → t.report = some ⟨.accepted, none⟩ →
    (t.block.status ≠ s.block.status ∨ i = .parse) → t.block.dataAvail = true) ∧
  (∀ s : State, ∃ t, performAll [.hostReadStatus, .hostClearUnreadSnap] s = .next t ∧
    t.block.dataAvail = false)

/-- 10_state.md R25 and R26: the sticky fault flags are set by the classification of `EV_REG_DONE` and
cleared by a status read, and by reset, only. -/
def Obligations.StickyFlagsClearOnlyOnStatusRead : Prop :=
  (∀ i s t (f : StatusFlag), (f = .mp ∨ f = .pf) → exec i s = .next t →
    (s.block.flag f = true → t.block.flag f = false → i = .hostReadStatus) ∧
    (s.block.flag f = false → t.block.flag f = true → ∃ w, i = .evRegDone w)) ∧
  (∀ s t : State, step s = .next t → ∀ f : StatusFlag, (f = .mp ∨ f = .pf) →
    s.block.flag f = true → t.block.flag f = false →
    (∃ w rest, s.inputs = .op .host w :: rest ∧ decode s.cfg .host w = .ok .hostReadStatus) ∨
    (∃ rest, s.inputs = .reset true :: rest))

/-! ## Parameters -/

/-- The parameters of the state after reset are the values 00_scope.md R5 prints, and they are in its
ranges. That `State.reset` takes the printed values is the model's choice (log entry 5, DESIGN CHOICE). -/
def Obligations.ResetHasThePrintedParameters : Prop :=
  State.reset = State.resetWith Config.standard ∧
  State.reset.cfg = { frameLen := 1063, pageWords := 107, mismatchLimit := 5 } ∧
  State.reset.cfg.wf ∧ Config.pages = 5 ∧ Config.reqLen = 8 ∧ Config.pageStride = 1000
end

