-- ==== Sys2Proof/Laws/Crc.lean ====
section
/-! SUPPORT. The laws of the bit loop of the CRC unit: it is linear, it has no kernel, and on a value whose
low bits are zero it only shifts. -/

namespace Sys2Proof.Machine

theorem getLsbD_crcRound (c : Word) (k : Nat) :
    (crcRound c).getLsbD k =
      (c.getLsbD (k + 1) ^^ (c.getLsbD 0 && (0xA001#16).getLsbD k)) := by
  unfold crcRound
  cases h : c.getLsbD 0 <;> simp [Nat.add_comm]

/-- One round is linear. -/
theorem crcRound_xor (x y : Word) : crcRound (x ^^^ y) = crcRound x ^^^ crcRound y := by
  apply BitVec.eq_of_getLsbD_eq
  intro k _
  simp only [getLsbD_crcRound, BitVec.getLsbD_xor]
  cases x.getLsbD (k + 1) <;> cases y.getLsbD (k + 1) <;> cases x.getLsbD 0 <;>
    cases y.getLsbD 0 <;> simp

/-- `n` rounds are linear. -/
theorem crcRounds_xor (n : Nat) (x y : Word) :
    crcRounds n (x ^^^ y) = crcRounds n x ^^^ crcRounds n y := by
  induction n generalizing x y with
  | zero => rfl
  | succ n ih => simp only [crcRounds, crcRound_xor, ih]

/-- Only zero goes to zero in one round: bit 15 of the result is bit 0 of the argument. -/
theorem crcRound_eq_zero {c : Word} (h : crcRound c = 0) : c = 0 := by
  have hb : ∀ k, (c.getLsbD (k + 1) ^^ (c.getLsbD 0 && (0xA001#16).getLsbD k)) = false := by
    intro k
    rw [← getLsbD_crcRound, h]
    simp
  have h0 : c.getLsbD 0 = false := by
    have := hb 15
    have e : c.getLsbD 16 = false := BitVec.getLsbD_of_ge c 16 (by decide)
    have a : (0xA001#16).getLsbD 15 = true := by decide
    simpa [e, a] using this
  apply BitVec.eq_of_getLsbD_eq
  intro k _
  cases k with
  | zero => simpa using h0
  | succ k =>
    have := hb k
    rw [h0, Bool.false_and, Bool.xor_false] at this
    simpa using this

/-- Only zero goes to zero in `n` rounds, so the rounds are one to one. -/
theorem crcRounds_eq_zero {n : Nat} {c : Word} (h : crcRounds n c = 0) : c = 0 := by
  induction n generalizing c with
  | zero => exact h
  | succ n ih => exact crcRound_eq_zero (ih h)

@[simp] theorem crcRounds_zero (n : Nat) : crcRounds n 0 = 0 := by
  induction n with
  | zero => rfl
  | succ n ih =>
    have e : crcRound 0 = 0 := by decide
    simp only [crcRounds, e, ih]

/-- On a value whose lowest `n` bits are zero, `n` rounds shift right by `n`. -/
theorem crcRounds_of_low_zero {n : Nat} {c : Word} (h : ∀ k, k < n → c.getLsbD k = false) :
    crcRounds n c = c >>> n := by
  induction n generalizing c with
  | zero => simp [crcRounds]
  | succ n ih =>
    have e : crcRound c = c >>> 1 := by
      unfold crcRound
      rw [h 0 (by omega)]
      rfl
    rw [crcRounds, e, ih]
    · rw [← BitVec.shiftRight_add, Nat.add_comm]
    · intro k hk
      simpa [Nat.add_comm] using h (k + 1) (by omega)

end Sys2Proof.Machine
end

