-- ==== Sys2Proof/Laws/Decode.lean ====
section
/-! SUPPORT. The laws of the opcode map and of the fields of a word. -/

namespace Sys2Proof.Machine

/-- Every row's opcode finds that row: no two rows share an opcode. -/
@[simp] theorem opOfOpcode_opc (o : Op) : opOfOpcode o.opc = some o := by cases o <;> decide

/-- The row an opcode finds has that opcode. -/
theorem opc_of_opOfOpcode {b : Byte} {o : Op} (h : opOfOpcode b = some o) : o.opc = b := by
  have := List.find?_some h
  simpa using this

/-- The class of a row is the port of the agent that issues it (10_state.md R22, 30_encoding.md R91). -/
theorem agent_port (o : Op) : o.agent.port = o.port := by cases o <;> rfl

@[simp] theorem op_instrOf (o : Op) (d : Word) : (instrOf o d).op = o := by cases o <;> rfl

/-- A word put together from its three fields (30_encoding.md R90). -/
def wordOf (opc rsv : Byte) (d : Word) : OpWord :=
  opc.setWidth 32 <<< 24 ||| rsv.setWidth 32 <<< 16 ||| d.setWidth 32

theorem getLsbD_wordOf (opc rsv : Byte) (d : Word) {k : Nat} (hk : k < 32) :
    (wordOf opc rsv d).getLsbD k =
      if k < 16 then d.getLsbD k else if k < 24 then rsv.getLsbD (k - 16) else opc.getLsbD (k - 24) := by
  unfold wordOf
  by_cases h1 : k < 16
  · have h3 : k < 24 := by omega
    simp [hk, h1, h3]
  · have g1 : d.getLsbD k = false := BitVec.getLsbD_of_ge d k (by omega)
    by_cases h2 : k < 24
    · simp [hk, h1, h2, g1]
    · have g2 : rsv.getLsbD (k - 16) = false := BitVec.getLsbD_of_ge rsv _ (by omega)
      simp [hk, h1, h2, g1, g2]

@[simp] theorem wordOpc_wordOf (opc rsv : Byte) (d : Word) : wordOpc (wordOf opc rsv d) = opc := by
  apply BitVec.eq_of_getLsbD_eq
  intro i hi
  have a : ¬ 24 + i < 16 := by omega
  have b : ¬ 24 + i < 24 := by omega
  have c : 24 + i - 24 = i := by omega
  simp only [wordOpc, BitVec.getLsbD_extractLsb', getLsbD_wordOf opc rsv d (k := 24 + i) (by omega),
    if_neg a, if_neg b, c]
  simp [hi]

@[simp] theorem wordRsv_wordOf (opc rsv : Byte) (d : Word) : wordRsv (wordOf opc rsv d) = rsv := by
  apply BitVec.eq_of_getLsbD_eq
  intro i hi
  have a : ¬ 16 + i < 16 := by omega
  have b : 16 + i < 24 := by omega
  have c : 16 + i - 16 = i := by omega
  simp only [wordRsv, BitVec.getLsbD_extractLsb', getLsbD_wordOf opc rsv d (k := 16 + i) (by omega),
    if_neg a, if_pos b, c]
  simp [hi]

@[simp] theorem wordOpnd_wordOf (opc rsv : Byte) (d : Word) : wordOpnd (wordOf opc rsv d) = d := by
  apply BitVec.eq_of_getLsbD_eq
  intro i hi
  have b : 0 + i < 16 := by omega
  simp only [wordOpnd, BitVec.getLsbD_extractLsb', getLsbD_wordOf opc rsv d (k := 0 + i) (by omega),
    if_pos b]
  simp [hi]

/-- A word is its three fields. -/
theorem wordOf_fields (w : OpWord) : wordOf (wordOpc w) (wordRsv w) (wordOpnd w) = w := by
  apply BitVec.eq_of_getLsbD_eq
  intro i hi
  rw [getLsbD_wordOf _ _ _ hi]
  split
  · simp [wordOpnd, *]
  · split
    · have : i - 16 < 8 := by omega
      have e : 16 + (i - 16) = i := by omega
      simp [wordRsv, this, e]
    · have : i - 24 < 8 := by omega
      have e : 24 + (i - 24) = i := by omega
      simp [wordOpc, this, e]

theorem encode_eq_wordOf (i : Instr) : encode i = wordOf i.op.opc 0 i.operand := by
  simp [encode, wordOf]

/-- Decoding a word given by its fields, when its opcode is a row's. -/
theorem decode_wordOf (c : Config) (p : Port) (o : Op) (rsv : Byte) (d : Word) :
    decode c p (wordOf o.opc rsv d) =
      if o.port ≠ p then .error .port
      else if rsv ≠ 0 then .error .reserved
      else if d &&& o.form.mustBeZero ≠ 0 then .error .operand
      else if (instrOf o d).wf c then .ok (instrOf o d)
      else .error .range := by
  simp [decode]

/-- An operation's operand sets no must-be-zero bit of its form (30_encoding.md R92). -/
theorem operand_mustBeZero (i : Instr) : i.operand &&& i.op.form.mustBeZero = 0 := by
  cases i with
  | hostSetLock e => cases e <;> decide
  | evPoll lv =>
    apply BitVec.eq_of_getLsbD_eq
    intro k hk
    by_cases h : k < 4
    · have : k = 0 ∨ k = 1 ∨ k = 2 ∨ k = 3 := by omega
      rcases this with rfl | rfl | rfl | rfl <;>
        simp [Instr.operand, Instr.op, Op.form, Form.mustBeZero]
    · simp [Instr.operand, BitVec.getLsbD_of_ge lv k (by omega)]
  | crcByte b =>
    apply BitVec.eq_of_getLsbD_eq
    intro k hk
    by_cases h : k < 8
    · have : k = 0 ∨ k = 1 ∨ k = 2 ∨ k = 3 ∨ k = 4 ∨ k = 5 ∨ k = 6 ∨ k = 7 := by omega
      rcases this with rfl | rfl | rfl | rfl | rfl | rfl | rfl | rfl <;>
        simp [Instr.operand, Instr.op, Op.form, Form.mustBeZero]
    · simp [Instr.operand, BitVec.getLsbD_of_ge b k (by omega)]
  | evBulkByte b =>
    apply BitVec.eq_of_getLsbD_eq
    intro k hk
    by_cases h : k < 8
    · have : k = 0 ∨ k = 1 ∨ k = 2 ∨ k = 3 ∨ k = 4 ∨ k = 5 ∨ k = 6 ∨ k = 7 := by omega
      rcases this with rfl | rfl | rfl | rfl | rfl | rfl | rfl | rfl <;>
        simp [Instr.operand, Instr.op, Op.form, Form.mustBeZero]
    · simp [Instr.operand, BitVec.getLsbD_of_ge b k (by omega)]
  | _ => simp [Instr.operand, Instr.op, Op.form, Form.mustBeZero]

/-- The operation is read back from its own operand field. -/
theorem instrOf_operand (i : Instr) : instrOf i.op i.operand = i := by
  have low : ∀ b : Byte, (b.setWidth 16).extractLsb' 0 8 = b := by
    intro b
    apply BitVec.eq_of_getLsbD_eq
    intro k hk
    have : k < 16 := by omega
    simp [hk, this]
  cases i with
  | crcByte b => simp only [instrOf, Instr.op, Instr.operand, low]
  | evBulkByte b => simp only [instrOf, Instr.op, Instr.operand, low]
  | evPoll lv =>
    simp only [instrOf, Instr.op, Instr.operand, Instr.evPoll.injEq]
    apply BitVec.eq_of_getLsbD_eq
    intro k hk
    have : k < 16 := by omega
    simp [hk, this]
  | hostSetLock e => cases e <;> rfl
  | hostReadPage p x =>
    simp only [instrOf, Instr.op, Instr.operand, Instr.hostReadPage.injEq]
    constructor <;> apply BitVec.eq_of_getLsbD_eq <;> intro k hk
    · have h1 : 8 + k < 16 := by omega
      simp [hk, h1]
    · have h1 : k < 16 := by omega
      simp [hk, h1]
  | _ => rfl

/-- The encoding and the exceptions of every row, from the opcode map. -/
theorem rowEncodes (o : Op) :
    RowEncodes o.port (wordOf o.opc 0 0) o.form.mustBeZero (instrOf o) := by
  have e0 : ∀ d : Word, wordOf o.opc 0 0 ||| d.setWidth 32 = wordOf o.opc 0 d := by
    intro d; simp [wordOf]
  have e1 : ∀ (r : Byte) (d : Word),
      wordOf o.opc 0 0 ||| r.setWidth 32 <<< 16 ||| d.setWidth 32 = wordOf o.opc r d := by
    intro r d; simp [wordOf]
  intro c d rsv
  refine ⟨fun hz hw => ?_, fun q hq => ?_, fun hr => ?_, fun hz => ?_⟩
  · rw [e0, decode_wordOf]; simp [hz, hw]
  · rw [e1, decode_wordOf]; simp [Ne.symm hq]
  · rw [e1, decode_wordOf, if_neg (by simp), if_pos hr]
  · rw [e0, decode_wordOf, if_neg (by simp), if_neg (by simp), if_pos hz]

end Sys2Proof.Machine
end

