-- ==== Sys2Proof/Laws/Memory.lean ====
section
/-! SUPPORT. The laws of a memory: read after write, reads elsewhere, and that every operation keeps the
canonical form and the bound on the indexes. -/

namespace Sys2Proof.Machine

variable {w : Nat}

@[simp] theorem read_nil (k : Nat) : Memory.read ([] : Memory w) k = 0 := rfl

@[simp] theorem wf_nil : Memory.wf ([] : Memory w) = true := rfl

theorem wf_cons (a : Nat) (v : BitVec w) (rest : Memory w) :
    Memory.wf ((a, v) :: rest) = true ↔
      v ≠ 0 ∧ (∀ x ∈ rest, a < x.1) ∧ Memory.wf rest = true := by
  simp [Memory.wf, and_assoc]

theorem wf_tail {a : Nat} {v : BitVec w} {rest : Memory w}
    (h : Memory.wf ((a, v) :: rest) = true) : Memory.wf rest = true :=
  ((wf_cons a v rest).1 h).2.2

/-- An index below every listed one reads 0. -/
theorem read_of_lt {m : Memory w} {k : Nat} (h : ∀ x ∈ m, k < x.1) : Memory.read m k = 0 := by
  induction m with
  | nil => rfl
  | cons x rest ih =>
    obtain ⟨a, v⟩ := x
    have ha : k < a := h (a, v) (by simp)
    simp only [Memory.read, if_neg (Nat.ne_of_gt ha)]
    exact ih (fun y hy => h y (by simp [hy]))

theorem mem_erase {m : Memory w} {k : Nat} {x : Nat × BitVec w} (h : x ∈ Memory.erase m k) :
    x ∈ m := by
  induction m with
  | nil => simp [Memory.erase] at h
  | cons y rest ih =>
    obtain ⟨a, v⟩ := y
    simp only [Memory.erase] at h
    split at h
    · exact List.mem_cons_of_mem _ h
    · rcases List.mem_cons.1 h with h | h
      · simp [h]
      · exact List.mem_cons_of_mem _ (ih h)

theorem mem_insert {m : Memory w} {k : Nat} {v : BitVec w} {x : Nat × BitVec w}
    (h : x ∈ Memory.insert m k v) : x = (k, v) ∨ x ∈ m := by
  induction m with
  | nil => simpa [Memory.insert] using h
  | cons y rest ih =>
    obtain ⟨a, u⟩ := y
    simp only [Memory.insert] at h
    split at h
    · simpa using h
    · split at h
      · rcases List.mem_cons.1 h with h | h
        · exact .inl h
        · exact .inr (List.mem_cons_of_mem _ h)
      · rcases List.mem_cons.1 h with h | h
        · exact .inr (by simp [h])
        · exact (ih h).imp_right (List.mem_cons_of_mem _)

theorem mem_write {m : Memory w} {k : Nat} {v : BitVec w} {x : Nat × BitVec w}
    (h : x ∈ Memory.write m k v) : x = (k, v) ∨ x ∈ m := by
  unfold Memory.write at h
  split at h
  · exact .inr (mem_erase h)
  · exact mem_insert h

theorem read_erase {m : Memory w} (hm : Memory.wf m = true) (k j : Nat) :
    Memory.read (Memory.erase m k) j = if j = k then 0 else Memory.read m j := by
  induction m with
  | nil => simp [Memory.erase]
  | cons y rest ih =>
    obtain ⟨a, v⟩ := y
    obtain ⟨-, hlt, hr⟩ := (wf_cons a v rest).1 hm
    by_cases hk : a = k
    · subst hk
      simp only [Memory.erase, if_true, Memory.read]
      by_cases hj : j = a
      · subst hj; simp [read_of_lt hlt]
      · simp [hj, Ne.symm hj]
    · simp only [Memory.erase, if_neg hk, Memory.read, ih hr]
      by_cases hj : a = j
      · subst hj; simp [hk]
      · simp [hj]

theorem read_insert (m : Memory w) (k j : Nat) (v : BitVec w) :
    Memory.read (Memory.insert m k v) j = if j = k then v else Memory.read m j := by
  induction m with
  | nil => simp [Memory.insert, Memory.read, eq_comm]
  | cons y rest ih =>
    obtain ⟨a, u⟩ := y
    simp only [Memory.insert]
    split
    · simp [Memory.read, eq_comm (a := j) (b := k)]
    · split
      · rename_i hk; subst hk
        by_cases h : a = j
        · subst h; simp [Memory.read]
        · simp [Memory.read, h, Ne.symm h]
      · rename_i hk
        simp only [Memory.read, ih]
        by_cases h : a = j
        · subst h; simp [hk]
        · simp [h]

/-- Read after write, at the same index and at every other. -/
theorem read_write {m : Memory w} (hm : Memory.wf m = true) (k j : Nat) (v : BitVec w) :
    Memory.read (Memory.write m k v) j = if j = k then v else Memory.read m j := by
  unfold Memory.write
  split
  · rename_i h; subst h; exact read_erase hm k j
  · exact read_insert m k j v

theorem read_erase_ne (m : Memory w) {k j : Nat} (hj : j ≠ k) :
    Memory.read (Memory.erase m k) j = Memory.read m j := by
  induction m with
  | nil => rfl
  | cons y rest ih =>
    obtain ⟨a, v⟩ := y
    simp only [Memory.erase]
    split
    · rename_i hk; subst hk; simp [Memory.read, Ne.symm hj]
    · simp only [Memory.read, ih]

/-- A write leaves every other index alone, in canonical form or not. -/
theorem read_write_ne (m : Memory w) {k j : Nat} (hj : j ≠ k) (v : BitVec w) :
    Memory.read (Memory.write m k v) j = Memory.read m j := by
  unfold Memory.write
  split
  · exact read_erase_ne m hj
  · rw [read_insert, if_neg hj]

/-- A run of writes leaves every index it does not name alone, in canonical form or not. -/
theorem read_writeAll_of_not_mem (m : Memory w) (f : Nat → BitVec w) {ks : List Nat} {j : Nat}
    (hj : j ∉ ks) : Memory.read (Memory.writeAll f ks m) j = Memory.read m j := by
  induction ks generalizing m with
  | nil => rfl
  | cons k ks ih =>
    rw [List.mem_cons, not_or] at hj
    rw [Memory.writeAll, ih _ hj.2, read_write_ne m hj.1]

theorem wf_erase {m : Memory w} (hm : Memory.wf m = true) (k : Nat) :
    Memory.wf (Memory.erase m k) = true := by
  induction m with
  | nil => rfl
  | cons y rest ih =>
    obtain ⟨a, v⟩ := y
    obtain ⟨hv, hlt, hr⟩ := (wf_cons a v rest).1 hm
    simp only [Memory.erase]
    split
    · exact hr
    · exact (wf_cons a v _).2 ⟨hv, fun x hx => hlt x (mem_erase hx), ih hr⟩

theorem wf_insert {m : Memory w} (hm : Memory.wf m = true) (k : Nat) {v : BitVec w} (hv : v ≠ 0) :
    Memory.wf (Memory.insert m k v) = true := by
  induction m with
  | nil => simpa [Memory.insert, Memory.wf] using hv
  | cons y rest ih =>
    obtain ⟨a, u⟩ := y
    obtain ⟨hu, hlt, hr⟩ := (wf_cons a u rest).1 hm
    simp only [Memory.insert]
    split
    · rename_i hk
      refine (wf_cons k v _).2 ⟨hv, fun x hx => ?_, hm⟩
      rcases List.mem_cons.1 hx with h | h
      · simpa [h] using hk
      · exact Nat.lt_trans hk (hlt x h)
    · rename_i hk
      split
      · rename_i hak; subst hak
        exact (wf_cons a v _).2 ⟨hv, hlt, hr⟩
      · rename_i hak
        refine (wf_cons a u _).2 ⟨hu, fun x hx => ?_, ih hr⟩
        rcases mem_insert hx with h | h
        · simp only [h]; omega
        · exact hlt x h

/-- A write keeps the canonical form. -/
theorem wf_write {m : Memory w} (hm : Memory.wf m = true) (k : Nat) (v : BitVec w) :
    Memory.wf (Memory.write m k v) = true := by
  unfold Memory.write
  split
  · exact wf_erase hm k
  · rename_i h; exact wf_insert hm k h

/-- A run of writes keeps the canonical form. -/
theorem wf_writeAll {m : Memory w} (hm : Memory.wf m = true) (f : Nat → BitVec w) (ks : List Nat) :
    Memory.wf (Memory.writeAll f ks m) = true := by
  induction ks generalizing m with
  | nil => exact hm
  | cons k ks ih => exact ih (wf_write hm k (f k))

/-- What a run of writes of one function leaves at every index. -/
theorem read_writeAll {m : Memory w} (hm : Memory.wf m = true) (f : Nat → BitVec w) (ks : List Nat)
    (j : Nat) :
    Memory.read (Memory.writeAll f ks m) j = if j ∈ ks then f j else Memory.read m j := by
  induction ks generalizing m with
  | nil => simp [Memory.writeAll]
  | cons k ks ih =>
    simp only [Memory.writeAll, ih (wf_write hm k (f k)), read_write hm]
    by_cases h1 : j ∈ ks
    · simp [h1]
    · by_cases h2 : j = k
      · subst h2; simp
      · simp [h1, h2]

theorem within_iff {ok : Nat → Bool} {m : Memory w} :
    Memory.within ok m = true ↔ ∀ x ∈ m, ok x.1 = true := by simp [Memory.within]

/-- A write at an index of the space keeps the bound on the indexes. -/
theorem within_write {ok : Nat → Bool} {m : Memory w} (hm : Memory.within ok m = true) {k : Nat}
    (hk : ok k = true) (v : BitVec w) : Memory.within ok (Memory.write m k v) = true := by
  rw [within_iff] at hm ⊢
  intro x hx
  rcases mem_write hx with h | h
  · simpa [h] using hk
  · exact hm x h

theorem within_writeAll {ok : Nat → Bool} {m : Memory w} (hm : Memory.within ok m = true)
    (f : Nat → BitVec w) {ks : List Nat} (hks : ∀ k ∈ ks, ok k = true) :
    Memory.within ok (Memory.writeAll f ks m) = true := by
  induction ks generalizing m with
  | nil => exact hm
  | cons k ks ih =>
    exact ih (within_write hm (hks k (by simp)) (f k)) (fun j hj => hks j (by simp [hj]))

/-- Two canonical memories that read alike are the same list: equal memories are equal data. -/
theorem eq_of_read_eq {m n : Memory w} (hm : Memory.wf m = true) (hn : Memory.wf n = true)
    (h : ∀ k, Memory.read m k = Memory.read n k) : m = n := by
  induction m generalizing n with
  | nil =>
    cases n with
    | nil => rfl
    | cons y rest =>
      obtain ⟨a, v⟩ := y
      have := h a
      simp [Memory.read] at this
      exact absurd this.symm ((wf_cons a v rest).1 hn).1
  | cons x rest ih =>
    obtain ⟨a, v⟩ := x
    obtain ⟨hv, hlt, hr⟩ := (wf_cons a v rest).1 hm
    cases n with
    | nil =>
      have := h a
      simp [Memory.read] at this
      exact absurd this hv
    | cons y rest' =>
      obtain ⟨b, u⟩ := y
      obtain ⟨hu, hlt', hr'⟩ := (wf_cons b u rest').1 hn
      have hab : a = b := by
        rcases Nat.lt_trichotomy a b with hl | he | hl
        · have := h a
          rw [read_of_lt (m := (b, u) :: rest') (k := a)] at this
          · simp [Memory.read] at this; exact absurd this hv
          · intro z hz
            rcases List.mem_cons.1 hz with hz | hz
            · simpa [hz] using hl
            · exact Nat.lt_trans hl (hlt' z hz)
        · exact he
        · have := h b
          rw [read_of_lt (m := (a, v) :: rest) (k := b)] at this
          · simp [Memory.read] at this; exact absurd this.symm hu
          · intro z hz
            rcases List.mem_cons.1 hz with hz | hz
            · simpa [hz] using hl
            · exact Nat.lt_trans hl (hlt z hz)
      subst hab
      have hvu : v = u := by simpa [Memory.read] using h a
      subst hvu
      have hrest : rest = rest' := by
        refine ih hr hr' (fun k => ?_)
        by_cases hk : a = k
        · subst hk; rw [read_of_lt hlt, read_of_lt hlt']
        · simpa [Memory.read, hk] using h k
      rw [hrest]

end Sys2Proof.Machine
end

