-- ==== Sys2Proof/Laws/Flags.lean ====
section
/-! SUPPORT. The laws of the fields of `STATUS` and `CMD`: each write of a field is read back, and leaves
every other field alone. -/

namespace Sys2Proof.Machine

theorem statusBit_inj {f g : StatusFlag} : statusBit f = statusBit g ↔ f = g := by
  cases f <;> cases g <;> decide

theorem statusBit_range (f : StatusFlag) : 8 ≤ statusBit f ∧ statusBit f < 16 := by
  cases f <;> decide

theorem getLsbD_setStatusFlag (f : StatusFlag) (v : Bool) (w : Word) (k : Nat) :
    (setStatusFlag f v w).getLsbD k = if k = statusBit f then v else w.getLsbD k := by
  have hr := statusBit_range f
  unfold setStatusFlag
  by_cases hk : k = statusBit f
  · subst hk
    cases v <;> simp [hr.2]
  · have hk' : ¬ statusBit f = k := fun h => hk h.symm
    by_cases h16 : k < 16
    · cases v <;> simp [hk, h16]
    · cases v <;>
        simp [hk, BitVec.getLsbD_of_ge w k (by omega), BitVec.getLsbD_twoPow, hk']

/-- `STATUS.F <- v` is read back in `F` and leaves every other flag alone. -/
@[simp] theorem statusFlag_setStatusFlag (f g : StatusFlag) (v : Bool) (w : Word) :
    statusFlag g (setStatusFlag f v w) = if g = f then v else statusFlag g w := by
  simp [statusFlag, getLsbD_setStatusFlag, statusBit_inj]

/-- `STATUS.F <- v` leaves the button byte alone. -/
@[simp] theorem buttonField_setStatusFlag (f : StatusFlag) (v : Bool) (w : Word) :
    buttonField (setStatusFlag f v w) = buttonField w := by
  have hr := statusBit_range f
  apply BitVec.eq_of_getLsbD_eq
  intro i hi
  have : i ≠ statusBit f := by omega
  simp [buttonField, getLsbD_setStatusFlag, this]

theorem getLsbD_setButtonField (b : Byte) (w : Word) (k : Nat) :
    (setButtonField b w).getLsbD k = if k < 8 then b.getLsbD k else w.getLsbD k := by
  by_cases h16 : k < 16
  · by_cases h : k < 8
    · simp [setButtonField, h16, h]
    · have e : 8 + (k - 8) = k := by omega
      have g : b.getLsbD k = false := BitVec.getLsbD_of_ge b k (by omega)
      simp [setButtonField, h16, h, e, g]
  · have h : ¬ k < 8 := by omega
    simp [h, BitVec.getLsbD_of_ge w k (by omega),
      BitVec.getLsbD_of_ge (setButtonField b w) k (by omega)]

@[simp] theorem buttonField_setButtonField (b : Byte) (w : Word) :
    buttonField (setButtonField b w) = b := by
  apply BitVec.eq_of_getLsbD_eq
  intro i hi
  simp only [buttonField, BitVec.getLsbD_extractLsb', getLsbD_setButtonField]
  simp [hi]

/-- Writing the button byte leaves every flag alone. -/
@[simp] theorem statusFlag_setButtonField (f : StatusFlag) (b : Byte) (w : Word) :
    statusFlag f (setButtonField b w) = statusFlag f w := by
  have hr := statusBit_range f
  have : ¬ statusBit f < 8 := by omega
  simp [statusFlag, getLsbD_setButtonField, this]

/-- Writing the button byte leaves bits 15:8 alone. -/
@[simp] theorem highByte_setButtonField (b : Byte) (w : Word) :
    highByte (setButtonField b w) = highByte w := by
  apply BitVec.eq_of_getLsbD_eq
  intro i hi
  simp [highByte, getLsbD_setButtonField]

@[simp] theorem statusFlag_toggleStatusFlag (f g : StatusFlag) (c : Bool) (w : Word) :
    statusFlag g (toggleStatusFlag f c w) =
      if g = f then (statusFlag f w != c) else statusFlag g w := by
  unfold toggleStatusFlag
  by_cases h : g = f
  · subst h; cases c <;> simp
  · cases c <;> simp [h]

@[simp] theorem buttonField_toggleStatusFlag (f : StatusFlag) (c : Bool) (w : Word) :
    buttonField (toggleStatusFlag f c w) = buttonField w := by
  unfold toggleStatusFlag; cases c <;> simp

/-- A status word is its button byte and its eight flags. -/
theorem status_ext {x y : Word} (hb : buttonField x = buttonField y)
    (hf : ∀ f, statusFlag f x = statusFlag f y) : x = y := by
  apply BitVec.eq_of_getLsbD_eq
  intro i hi
  by_cases h8 : i < 8
  · have := congrArg (fun b : Byte => b.getLsbD i) hb
    simpa [buttonField, h8] using this
  · have h : i = 8 ∨ i = 9 ∨ i = 10 ∨ i = 11 ∨ i = 12 ∨ i = 13 ∨ i = 14 ∨ i = 15 := by omega
    rcases h with h | h | h | h | h | h | h | h <;> subst h
    · exact hf .mp
    · exact hf .pf
    · exact hf .pwr
    · exact hf .stby
    · exact hf .red
    · exact hf .white
    · exact hf .bulkLive
    · exact hf .regLive

/-- Writing the value a flag already has changes nothing. -/
theorem setStatusFlag_same {f : StatusFlag} {v : Bool} {w : Word} (h : statusFlag f w = v) :
    setStatusFlag f v w = w := by
  apply status_ext
  · simp
  · intro g
    by_cases hg : g = f
    · subst hg; simp [h]
    · simp [hg]

/-- Writing the byte the button field already has changes nothing. -/
theorem setButtonField_same {b : Byte} {w : Word} (h : buttonField w = b) :
    setButtonField b w = w := by
  apply status_ext
  · simp [h]
  · intro g; simp

/-- A command word is its button byte and its high byte. -/
theorem word_ext_bytes {x y : Word} (hl : buttonField x = buttonField y)
    (hh : highByte x = highByte y) : x = y := by
  apply status_ext hl
  intro f
  have hr := statusBit_range f
  have := congrArg (fun b : Byte => b.getLsbD (statusBit f - 8)) hh
  have e : 8 + (statusBit f - 8) = statusBit f := by omega
  have l : statusBit f - 8 < 8 := by omega
  simpa [highByte, statusFlag, e, l] using this

end Sys2Proof.Machine
end

