-- ==== Sys2Proof/Laws/State.lean ====
section
/-! SUPPORT. One small lemma for each field of the block and each named update of it, so that no proof
unfolds a record update. -/

namespace Sys2Proof.Machine

/-! ## `noteStatusChange` -/

@[simp] theorem noteStatusChange_status (a b : Block) :
    (noteStatusChange a b).status = b.status := rfl

@[simp] theorem noteStatusChange_cmd (a b : Block) :
    (noteStatusChange a b).cmd = b.cmd := rfl

@[simp] theorem noteStatusChange_crc (a b : Block) :
    (noteStatusChange a b).crc = b.crc := rfl

@[simp] theorem noteStatusChange_capturePending (a b : Block) :
    (noteStatusChange a b).capturePending = b.capturePending := rfl

@[simp] theorem noteStatusChange_snapshotLocked (a b : Block) :
    (noteStatusChange a b).snapshotLocked = b.snapshotLocked := rfl

@[simp] theorem noteStatusChange_unreadSnapshot (a b : Block) :
    (noteStatusChange a b).unreadSnapshot = b.unreadSnapshot := rfl

@[simp] theorem noteStatusChange_capturing (a b : Block) :
    (noteStatusChange a b).capturing = b.capturing := rfl

@[simp] theorem noteStatusChange_bulkSt (a b : Block) :
    (noteStatusChange a b).bulkSt = b.bulkSt := rfl

@[simp] theorem noteStatusChange_bulkAct (a b : Block) :
    (noteStatusChange a b).bulkAct = b.bulkAct := rfl

@[simp] theorem noteStatusChange_bulkPos (a b : Block) :
    (noteStatusChange a b).bulkPos = b.bulkPos := rfl

@[simp] theorem noteStatusChange_mmCnt (a b : Block) :
    (noteStatusChange a b).mmCnt = b.mmCnt := rfl

@[simp] theorem noteStatusChange_lastLvl (a b : Block) :
    (noteStatusChange a b).lastLvl = b.lastLvl := rfl

@[simp] theorem noteStatusChange_settleArmed (a b : Block) :
    (noteStatusChange a b).settleArmed = b.settleArmed := rfl

@[simp] theorem noteStatusChange_bulkWdtArmed (a b : Block) :
    (noteStatusChange a b).bulkWdtArmed = b.bulkWdtArmed := rfl

@[simp] theorem noteStatusChange_regWdtArmed (a b : Block) :
    (noteStatusChange a b).regWdtArmed = b.regWdtArmed := rfl

@[simp] theorem noteStatusChange_stbyArmed (a b : Block) :
    (noteStatusChange a b).stbyArmed = b.stbyArmed := rfl

@[simp] theorem noteStatusChange_rx0 (a b : Block) :
    (noteStatusChange a b).rx0 = b.rx0 := rfl

@[simp] theorem noteStatusChange_rx1 (a b : Block) :
    (noteStatusChange a b).rx1 = b.rx1 := rfl

@[simp] theorem noteStatusChange_cap (a b : Block) :
    (noteStatusChange a b).cap = b.cap := rfl

@[simp] theorem noteStatusChange_page (a b : Block) :
    (noteStatusChange a b).page = b.page := rfl

/-! ## `setRx` -/

@[simp] theorem setRx_status (a : Half) (m : List Host.Cell) (b : Block) :
    (b.setRx a m).status = b.status := by cases a <;> rfl

@[simp] theorem setRx_cmd (a : Half) (m : List Host.Cell) (b : Block) :
    (b.setRx a m).cmd = b.cmd := by cases a <;> rfl

@[simp] theorem setRx_crc (a : Half) (m : List Host.Cell) (b : Block) :
    (b.setRx a m).crc = b.crc := by cases a <;> rfl

@[simp] theorem setRx_capturePending (a : Half) (m : List Host.Cell) (b : Block) :
    (b.setRx a m).capturePending = b.capturePending := by cases a <;> rfl

@[simp] theorem setRx_snapshotLocked (a : Half) (m : List Host.Cell) (b : Block) :
    (b.setRx a m).snapshotLocked = b.snapshotLocked := by cases a <;> rfl

@[simp] theorem setRx_unreadStatus (a : Half) (m : List Host.Cell) (b : Block) :
    (b.setRx a m).unreadStatus = b.unreadStatus := by cases a <;> rfl

@[simp] theorem setRx_unreadSnapshot (a : Half) (m : List Host.Cell) (b : Block) :
    (b.setRx a m).unreadSnapshot = b.unreadSnapshot := by cases a <;> rfl

@[simp] theorem setRx_capturing (a : Half) (m : List Host.Cell) (b : Block) :
    (b.setRx a m).capturing = b.capturing := by cases a <;> rfl

@[simp] theorem setRx_bulkSt (a : Half) (m : List Host.Cell) (b : Block) :
    (b.setRx a m).bulkSt = b.bulkSt := by cases a <;> rfl

@[simp] theorem setRx_bulkAct (a : Half) (m : List Host.Cell) (b : Block) :
    (b.setRx a m).bulkAct = b.bulkAct := by cases a <;> rfl

@[simp] theorem setRx_bulkPos (a : Half) (m : List Host.Cell) (b : Block) :
    (b.setRx a m).bulkPos = b.bulkPos := by cases a <;> rfl

@[simp] theorem setRx_mmCnt (a : Half) (m : List Host.Cell) (b : Block) :
    (b.setRx a m).mmCnt = b.mmCnt := by cases a <;> rfl

@[simp] theorem setRx_lastLvl (a : Half) (m : List Host.Cell) (b : Block) :
    (b.setRx a m).lastLvl = b.lastLvl := by cases a <;> rfl

@[simp] theorem setRx_settleArmed (a : Half) (m : List Host.Cell) (b : Block) :
    (b.setRx a m).settleArmed = b.settleArmed := by cases a <;> rfl

@[simp] theorem setRx_bulkWdtArmed (a : Half) (m : List Host.Cell) (b : Block) :
    (b.setRx a m).bulkWdtArmed = b.bulkWdtArmed := by cases a <;> rfl

@[simp] theorem setRx_regWdtArmed (a : Half) (m : List Host.Cell) (b : Block) :
    (b.setRx a m).regWdtArmed = b.regWdtArmed := by cases a <;> rfl

@[simp] theorem setRx_stbyArmed (a : Half) (m : List Host.Cell) (b : Block) :
    (b.setRx a m).stbyArmed = b.stbyArmed := by cases a <;> rfl

@[simp] theorem setRx_cap (a : Half) (m : List Host.Cell) (b : Block) :
    (b.setRx a m).cap = b.cap := by cases a <;> rfl

@[simp] theorem setRx_page (a : Half) (m : List Host.Cell) (b : Block) :
    (b.setRx a m).page = b.page := by cases a <;> rfl

/-! ## `storeBulkByte` -/

@[simp] theorem storeBulkByte_status (v : Byte) (b : Block) :
    (storeBulkByte v b).status = b.status := by simp [storeBulkByte]

@[simp] theorem storeBulkByte_cmd (v : Byte) (b : Block) :
    (storeBulkByte v b).cmd = b.cmd := by simp [storeBulkByte]

@[simp] theorem storeBulkByte_crc (v : Byte) (b : Block) :
    (storeBulkByte v b).crc = b.crc := by simp [storeBulkByte]

@[simp] theorem storeBulkByte_capturePending (v : Byte) (b : Block) :
    (storeBulkByte v b).capturePending = b.capturePending := by simp [storeBulkByte]

@[simp] theorem storeBulkByte_snapshotLocked (v : Byte) (b : Block) :
    (storeBulkByte v b).snapshotLocked = b.snapshotLocked := by simp [storeBulkByte]

@[simp] theorem storeBulkByte_unreadStatus (v : Byte) (b : Block) :
    (storeBulkByte v b).unreadStatus = b.unreadStatus := by simp [storeBulkByte]

@[simp] theorem storeBulkByte_unreadSnapshot (v : Byte) (b : Block) :
    (storeBulkByte v b).unreadSnapshot = b.unreadSnapshot := by simp [storeBulkByte]

@[simp] theorem storeBulkByte_capturing (v : Byte) (b : Block) :
    (storeBulkByte v b).capturing = b.capturing := by simp [storeBulkByte]

@[simp] theorem storeBulkByte_bulkSt (v : Byte) (b : Block) :
    (storeBulkByte v b).bulkSt = b.bulkSt := by simp [storeBulkByte]

@[simp] theorem storeBulkByte_bulkAct (v : Byte) (b : Block) :
    (storeBulkByte v b).bulkAct = b.bulkAct := by simp [storeBulkByte]

@[simp] theorem storeBulkByte_bulkPos (v : Byte) (b : Block) :
    (storeBulkByte v b).bulkPos = b.bulkPos := by simp [storeBulkByte]

@[simp] theorem storeBulkByte_mmCnt (v : Byte) (b : Block) :
    (storeBulkByte v b).mmCnt = b.mmCnt := by simp [storeBulkByte]

@[simp] theorem storeBulkByte_lastLvl (v : Byte) (b : Block) :
    (storeBulkByte v b).lastLvl = b.lastLvl := by simp [storeBulkByte]

@[simp] theorem storeBulkByte_settleArmed (v : Byte) (b : Block) :
    (storeBulkByte v b).settleArmed = b.settleArmed := by simp [storeBulkByte]

@[simp] theorem storeBulkByte_bulkWdtArmed (v : Byte) (b : Block) :
    (storeBulkByte v b).bulkWdtArmed = b.bulkWdtArmed := by simp [storeBulkByte]

@[simp] theorem storeBulkByte_regWdtArmed (v : Byte) (b : Block) :
    (storeBulkByte v b).regWdtArmed = b.regWdtArmed := by simp [storeBulkByte]

@[simp] theorem storeBulkByte_stbyArmed (v : Byte) (b : Block) :
    (storeBulkByte v b).stbyArmed = b.stbyArmed := by simp [storeBulkByte]

@[simp] theorem storeBulkByte_cap (v : Byte) (b : Block) :
    (storeBulkByte v b).cap = b.cap := by simp [storeBulkByte]

@[simp] theorem storeBulkByte_page (v : Byte) (b : Block) :
    (storeBulkByte v b).page = b.page := by simp [storeBulkByte]

/-! ## `completeFrame` -/

@[simp] theorem completeFrame_cmd (c : Config) (b : Block) :
    (completeFrame c b).cmd = b.cmd := rfl

@[simp] theorem completeFrame_crc (c : Config) (b : Block) :
    (completeFrame c b).crc = b.crc := rfl

@[simp] theorem completeFrame_snapshotLocked (c : Config) (b : Block) :
    (completeFrame c b).snapshotLocked = b.snapshotLocked := rfl

@[simp] theorem completeFrame_unreadStatus (c : Config) (b : Block) :
    (completeFrame c b).unreadStatus = b.unreadStatus := rfl

@[simp] theorem completeFrame_unreadSnapshot (c : Config) (b : Block) :
    (completeFrame c b).unreadSnapshot = b.unreadSnapshot := rfl

@[simp] theorem completeFrame_capturing (c : Config) (b : Block) :
    (completeFrame c b).capturing = b.capturing := rfl

@[simp] theorem completeFrame_bulkSt (c : Config) (b : Block) :
    (completeFrame c b).bulkSt = b.bulkSt := rfl

@[simp] theorem completeFrame_mmCnt (c : Config) (b : Block) :
    (completeFrame c b).mmCnt = b.mmCnt := rfl

@[simp] theorem completeFrame_lastLvl (c : Config) (b : Block) :
    (completeFrame c b).lastLvl = b.lastLvl := rfl

@[simp] theorem completeFrame_settleArmed (c : Config) (b : Block) :
    (completeFrame c b).settleArmed = b.settleArmed := rfl

@[simp] theorem completeFrame_regWdtArmed (c : Config) (b : Block) :
    (completeFrame c b).regWdtArmed = b.regWdtArmed := rfl

@[simp] theorem completeFrame_stbyArmed (c : Config) (b : Block) :
    (completeFrame c b).stbyArmed = b.stbyArmed := rfl

@[simp] theorem completeFrame_rx0 (c : Config) (b : Block) :
    (completeFrame c b).rx0 = b.rx0 := rfl

@[simp] theorem completeFrame_rx1 (c : Config) (b : Block) :
    (completeFrame c b).rx1 = b.rx1 := rfl

@[simp] theorem completeFrame_page (c : Config) (b : Block) :
    (completeFrame c b).page = b.page := rfl

/-! ## `regDone` -/

@[simp] theorem regDone_cmd (c : Config) (w : Word) (b : Block) :
    (regDone c w b).cmd = b.cmd := rfl

@[simp] theorem regDone_crc (c : Config) (w : Word) (b : Block) :
    (regDone c w b).crc = b.crc := rfl

@[simp] theorem regDone_capturePending (c : Config) (w : Word) (b : Block) :
    (regDone c w b).capturePending = b.capturePending := rfl

@[simp] theorem regDone_snapshotLocked (c : Config) (w : Word) (b : Block) :
    (regDone c w b).snapshotLocked = b.snapshotLocked := rfl

@[simp] theorem regDone_unreadStatus (c : Config) (w : Word) (b : Block) :
    (regDone c w b).unreadStatus = b.unreadStatus := rfl

@[simp] theorem regDone_unreadSnapshot (c : Config) (w : Word) (b : Block) :
    (regDone c w b).unreadSnapshot = b.unreadSnapshot := rfl

@[simp] theorem regDone_capturing (c : Config) (w : Word) (b : Block) :
    (regDone c w b).capturing = b.capturing := rfl

@[simp] theorem regDone_bulkSt (c : Config) (w : Word) (b : Block) :
    (regDone c w b).bulkSt = b.bulkSt := rfl

@[simp] theorem regDone_bulkAct (c : Config) (w : Word) (b : Block) :
    (regDone c w b).bulkAct = b.bulkAct := rfl

@[simp] theorem regDone_bulkPos (c : Config) (w : Word) (b : Block) :
    (regDone c w b).bulkPos = b.bulkPos := rfl

@[simp] theorem regDone_lastLvl (c : Config) (w : Word) (b : Block) :
    (regDone c w b).lastLvl = b.lastLvl := rfl

@[simp] theorem regDone_settleArmed (c : Config) (w : Word) (b : Block) :
    (regDone c w b).settleArmed = b.settleArmed := rfl

@[simp] theorem regDone_bulkWdtArmed (c : Config) (w : Word) (b : Block) :
    (regDone c w b).bulkWdtArmed = b.bulkWdtArmed := rfl

@[simp] theorem regDone_stbyArmed (c : Config) (w : Word) (b : Block) :
    (regDone c w b).stbyArmed = b.stbyArmed := rfl

@[simp] theorem regDone_rx0 (c : Config) (w : Word) (b : Block) :
    (regDone c w b).rx0 = b.rx0 := rfl

@[simp] theorem regDone_rx1 (c : Config) (w : Word) (b : Block) :
    (regDone c w b).rx1 = b.rx1 := rfl

@[simp] theorem regDone_cap (c : Config) (w : Word) (b : Block) :
    (regDone c w b).cap = b.cap := rfl

@[simp] theorem regDone_page (c : Config) (w : Word) (b : Block) :
    (regDone c w b).page = b.page := rfl

/-! ## `captureStart` -/

@[simp] theorem captureStart_status (b : Block) :
    (captureStart b).status = b.status := rfl

@[simp] theorem captureStart_cmd (b : Block) :
    (captureStart b).cmd = b.cmd := rfl

@[simp] theorem captureStart_crc (b : Block) :
    (captureStart b).crc = b.crc := rfl

@[simp] theorem captureStart_capturePending (b : Block) :
    (captureStart b).capturePending = b.capturePending := rfl

@[simp] theorem captureStart_snapshotLocked (b : Block) :
    (captureStart b).snapshotLocked = b.snapshotLocked := rfl

@[simp] theorem captureStart_unreadStatus (b : Block) :
    (captureStart b).unreadStatus = b.unreadStatus := rfl

@[simp] theorem captureStart_unreadSnapshot (b : Block) :
    (captureStart b).unreadSnapshot = b.unreadSnapshot := rfl

@[simp] theorem captureStart_bulkAct (b : Block) :
    (captureStart b).bulkAct = b.bulkAct := rfl

@[simp] theorem captureStart_mmCnt (b : Block) :
    (captureStart b).mmCnt = b.mmCnt := rfl

@[simp] theorem captureStart_lastLvl (b : Block) :
    (captureStart b).lastLvl = b.lastLvl := rfl

@[simp] theorem captureStart_settleArmed (b : Block) :
    (captureStart b).settleArmed = b.settleArmed := rfl

@[simp] theorem captureStart_bulkWdtArmed (b : Block) :
    (captureStart b).bulkWdtArmed = b.bulkWdtArmed := rfl

@[simp] theorem captureStart_stbyArmed (b : Block) :
    (captureStart b).stbyArmed = b.stbyArmed := rfl

@[simp] theorem captureStart_rx0 (b : Block) :
    (captureStart b).rx0 = b.rx0 := rfl

@[simp] theorem captureStart_rx1 (b : Block) :
    (captureStart b).rx1 = b.rx1 := rfl

@[simp] theorem captureStart_cap (b : Block) :
    (captureStart b).cap = b.cap := rfl

@[simp] theorem captureStart_page (b : Block) :
    (captureStart b).page = b.page := rfl

/-! ## `captureStop` -/

@[simp] theorem captureStop_crc (b : Block) :
    (captureStop b).crc = b.crc := rfl

@[simp] theorem captureStop_capturePending (b : Block) :
    (captureStop b).capturePending = b.capturePending := rfl

@[simp] theorem captureStop_snapshotLocked (b : Block) :
    (captureStop b).snapshotLocked = b.snapshotLocked := rfl

@[simp] theorem captureStop_unreadStatus (b : Block) :
    (captureStop b).unreadStatus = b.unreadStatus := rfl

@[simp] theorem captureStop_unreadSnapshot (b : Block) :
    (captureStop b).unreadSnapshot = b.unreadSnapshot := rfl

@[simp] theorem captureStop_bulkAct (b : Block) :
    (captureStop b).bulkAct = b.bulkAct := rfl

@[simp] theorem captureStop_lastLvl (b : Block) :
    (captureStop b).lastLvl = b.lastLvl := rfl

@[simp] theorem captureStop_stbyArmed (b : Block) :
    (captureStop b).stbyArmed = b.stbyArmed := rfl

@[simp] theorem captureStop_rx0 (b : Block) :
    (captureStop b).rx0 = b.rx0 := rfl

@[simp] theorem captureStop_rx1 (b : Block) :
    (captureStop b).rx1 = b.rx1 := rfl

@[simp] theorem captureStop_cap (b : Block) :
    (captureStop b).cap = b.cap := rfl

@[simp] theorem captureStop_page (b : Block) :
    (captureStop b).page = b.page := rfl

/-! ## `sampleLevels` -/

@[simp] theorem sampleLevels_cmd (lv : BitVec 4) (b : Block) :
    (sampleLevels lv b).cmd = b.cmd := rfl

@[simp] theorem sampleLevels_crc (lv : BitVec 4) (b : Block) :
    (sampleLevels lv b).crc = b.crc := rfl

@[simp] theorem sampleLevels_capturePending (lv : BitVec 4) (b : Block) :
    (sampleLevels lv b).capturePending = b.capturePending := rfl

@[simp] theorem sampleLevels_snapshotLocked (lv : BitVec 4) (b : Block) :
    (sampleLevels lv b).snapshotLocked = b.snapshotLocked := rfl

@[simp] theorem sampleLevels_unreadStatus (lv : BitVec 4) (b : Block) :
    (sampleLevels lv b).unreadStatus = b.unreadStatus := rfl

@[simp] theorem sampleLevels_unreadSnapshot (lv : BitVec 4) (b : Block) :
    (sampleLevels lv b).unreadSnapshot = b.unreadSnapshot := rfl

@[simp] theorem sampleLevels_capturing (lv : BitVec 4) (b : Block) :
    (sampleLevels lv b).capturing = b.capturing := rfl

@[simp] theorem sampleLevels_bulkSt (lv : BitVec 4) (b : Block) :
    (sampleLevels lv b).bulkSt = b.bulkSt := rfl

@[simp] theorem sampleLevels_bulkAct (lv : BitVec 4) (b : Block) :
    (sampleLevels lv b).bulkAct = b.bulkAct := rfl

@[simp] theorem sampleLevels_bulkPos (lv : BitVec 4) (b : Block) :
    (sampleLevels lv b).bulkPos = b.bulkPos := rfl

@[simp] theorem sampleLevels_mmCnt (lv : BitVec 4) (b : Block) :
    (sampleLevels lv b).mmCnt = b.mmCnt := rfl

@[simp] theorem sampleLevels_settleArmed (lv : BitVec 4) (b : Block) :
    (sampleLevels lv b).settleArmed = b.settleArmed := rfl

@[simp] theorem sampleLevels_bulkWdtArmed (lv : BitVec 4) (b : Block) :
    (sampleLevels lv b).bulkWdtArmed = b.bulkWdtArmed := rfl

@[simp] theorem sampleLevels_regWdtArmed (lv : BitVec 4) (b : Block) :
    (sampleLevels lv b).regWdtArmed = b.regWdtArmed := rfl

@[simp] theorem sampleLevels_rx0 (lv : BitVec 4) (b : Block) :
    (sampleLevels lv b).rx0 = b.rx0 := rfl

@[simp] theorem sampleLevels_rx1 (lv : BitVec 4) (b : Block) :
    (sampleLevels lv b).rx1 = b.rx1 := rfl

@[simp] theorem sampleLevels_cap (lv : BitVec 4) (b : Block) :
    (sampleLevels lv b).cap = b.cap := rfl

@[simp] theorem sampleLevels_page (lv : BitVec 4) (b : Block) :
    (sampleLevels lv b).page = b.page := rfl

/-! ## What the updates write -/

@[simp] theorem noteStatusChange_unreadStatus (a b : Block) :
    (noteStatusChange a b).unreadStatus = (b.unreadStatus || decide (b.status ≠ a.status)) := rfl

/-- A block whose `STATUS` did not change is not noted. -/
theorem noteStatusChange_same {a b : Block} (h : b.status = a.status) :
    noteStatusChange a b = b := by
  have : (b.unreadStatus || decide (b.status ≠ a.status)) = b.unreadStatus := by simp [h]
  unfold noteStatusChange
  rw [this]

/-- A receive half depends on the two halves alone. -/
theorem rx_congr {x y : Block} (h0 : x.rx0 = y.rx0) (h1 : x.rx1 = y.rx1) (a : Half) :
    x.rx a = y.rx a := by
  cases a
  · exact h0
  · exact h1

@[simp] theorem rx_noteStatusChange (a b : Block) (h : Half) :
    (noteStatusChange a b).rx h = b.rx h := by cases h <;> rfl

@[simp] theorem rx_setRx (b : Block) (a h : Half) (m : List Host.Cell) :
    (b.setRx a m).rx h = if h = a then m else b.rx h := by cases a <;> cases h <;> rfl

@[simp] theorem other_ne (a : Half) : a.other ≠ a := by cases a <;> decide

@[simp] theorem other_other (a : Half) : a.other.other = a := by cases a <;> rfl

@[simp] theorem rx_storeBulkByte (v : Byte) (b : Block) (h : Half) :
    (storeBulkByte v b).rx h =
      if h = b.bulkAct then Memory.write (b.rx b.bulkAct) b.bulkPos.toNat v else b.rx h := by
  simp [storeBulkByte]

@[simp] theorem captureStart_capturing (b : Block) : (captureStart b).capturing = true := rfl

@[simp] theorem captureStart_bulkSt (b : Block) : (captureStart b).bulkSt = .sync := rfl

@[simp] theorem captureStart_bulkPos (b : Block) : (captureStart b).bulkPos = 0 := rfl

@[simp] theorem captureStart_regWdtArmed (b : Block) : (captureStart b).regWdtArmed = true := rfl

@[simp] theorem captureStop_capturing (b : Block) : (captureStop b).capturing = false := rfl

@[simp] theorem captureStop_bulkSt (b : Block) : (captureStop b).bulkSt = .idle := rfl

@[simp] theorem captureStop_bulkPos (b : Block) : (captureStop b).bulkPos = 0 := rfl

@[simp] theorem captureStop_settleArmed (b : Block) : (captureStop b).settleArmed = false := rfl

@[simp] theorem captureStop_bulkWdtArmed (b : Block) : (captureStop b).bulkWdtArmed = false := rfl

@[simp] theorem captureStop_regWdtArmed (b : Block) : (captureStop b).regWdtArmed = false := rfl

@[simp] theorem captureStop_mmCnt (b : Block) : (captureStop b).mmCnt = 0 := rfl

@[simp] theorem captureStop_btn (b : Block) : (captureStop b).btn = 0x00 := by
  simp [captureStop, Block.btn]

@[simp] theorem captureStop_btnReq (b : Block) : (captureStop b).btnReq = 0x00 := by
  simp [captureStop, Block.btnReq]

@[simp] theorem captureStop_flag (b : Block) (f : StatusFlag) :
    (captureStop b).flag f = (b.flag f && decide (f ≠ .bulkLive) && decide (f ≠ .regLive)) := by
  cases f <;> simp [captureStop, Block.flag]

@[simp] theorem captureStart_flag (b : Block) (f : StatusFlag) :
    (captureStart b).flag f = b.flag f := rfl

@[simp] theorem sampleLevels_lastLvl (lv : BitVec 4) (b : Block) :
    (sampleLevels lv b).lastLvl = lv := rfl

@[simp] theorem sampleLevels_stbyArmed (lv : BitVec 4) (b : Block) :
    (sampleLevels lv b).stbyArmed = (b.stbyArmed || standbyRises b.lastLvl lv) := rfl

@[simp] theorem sampleLevels_btn (lv : BitVec 4) (b : Block) :
    (sampleLevels lv b).btn = b.btn := by
  simp only [sampleLevels, Block.btn, latchLevels]
  split <;> simp

/-- The flags after a poll's sample: three toggles and the standby set (43_detector.md R192, R193). -/
theorem sampleLevels_flag (lv : BitVec 4) (b : Block) (f : StatusFlag) :
    (sampleLevels lv b).flag f =
      match f with
      | .pwr => b.flag .pwr != (levelPower lv != levelPower b.lastLvl)
      | .red => b.flag .red != (levelRed lv != levelRed b.lastLvl)
      | .white => b.flag .white != (levelWhite lv != levelWhite b.lastLvl)
      | .stby => b.flag .stby || standbyRises b.lastLvl lv
      | .mp => b.flag .mp
      | .pf => b.flag .pf
      | .bulkLive => b.flag .bulkLive
      | .regLive => b.flag .regLive := by
  simp only [sampleLevels, Block.flag, latchLevels]
  cases f <;> cases standbyRises b.lastLvl lv <;> simp

@[simp] theorem completeFrame_bulkAct (c : Config) (b : Block) :
    (completeFrame c b).bulkAct = b.bulkAct.other := rfl

@[simp] theorem completeFrame_bulkPos (c : Config) (b : Block) :
    (completeFrame c b).bulkPos = 0 := rfl

@[simp] theorem completeFrame_bulkWdtArmed (c : Config) (b : Block) :
    (completeFrame c b).bulkWdtArmed = true := rfl

@[simp] theorem completeFrame_status (c : Config) (b : Block) :
    (completeFrame c b).status = setStatusFlag .bulkLive true b.status := rfl

@[simp] theorem rx_completeFrame (c : Config) (b : Block) (h : Half) :
    (completeFrame c b).rx h = b.rx h := by cases h <;> rfl

/-- What a completion does to the capture buffer and its flag (41_bulk_capture.md R143). -/
theorem completeFrame_copy (c : Config) (b : Block) :
    ((completeFrame c b).cap, (completeFrame c b).capturePending) =
      if framesDiffer c (b.rx b.bulkAct) (b.rx b.bulkAct.other) = true ∧ b.capturePending = false
      then (copyFrame c (b.rx b.bulkAct) b.cap, true) else (b.cap, b.capturePending) := by
  unfold completeFrame
  cases framesDiffer c (b.rx b.bulkAct) (b.rx b.bulkAct.other) <;> cases b.capturePending <;> simp

@[simp] theorem regDone_regWdtArmed (c : Config) (w : Word) (b : Block) :
    (regDone c w b).regWdtArmed = true := rfl

@[simp] theorem regDone_mmCnt (c : Config) (w : Word) (b : Block) :
    (regDone c w b).mmCnt = nextMismatch c (buttonByte w) b.btnReq b.mmCnt := rfl

@[simp] theorem buttonField_classify (btn req : Byte) (st : Word) :
    buttonField (classify btn req st) = buttonField st := by
  unfold classify; split
  · simp
  · split <;> simp

/-- The classification sets `PF` or `MP` and nothing else (42_register_capture.md R174). -/
theorem statusFlag_classify (btn req : Byte) (st : Word) (f : StatusFlag) :
    statusFlag f (classify btn req st) =
      match f with
      | .pf => statusFlag .pf st || decide (btn = 0x00 ∧ req ≠ 0x00)
      | .mp => statusFlag .mp st || decide (¬ (btn = 0x00 ∧ req ≠ 0x00) ∧ btn &&& ~~~req ≠ 0x00)
      | .pwr => statusFlag .pwr st
      | .stby => statusFlag .stby st
      | .red => statusFlag .red st
      | .white => statusFlag .white st
      | .bulkLive => statusFlag .bulkLive st
      | .regLive => statusFlag .regLive st := by
  unfold classify
  by_cases h1 : btn = 0x00 ∧ req ≠ 0x00
  · have e1 := decide_eq_true h1
    have e2 : decide (¬ (btn = 0x00 ∧ req ≠ 0x00) ∧ btn &&& ~~~req ≠ 0x00) = false :=
      decide_eq_false (fun h => h.1 h1)
    rw [if_pos h1]
    cases f <;> simp only [statusFlag_setStatusFlag, e1, e2, Bool.or_true, Bool.or_false,
      reduceIte, reduceCtorEq]
  · have e1 := decide_eq_false h1
    rw [if_neg h1]
    by_cases h2 : btn &&& ~~~req ≠ 0x00
    · have e2 := decide_eq_true (And.intro h1 h2)
      rw [if_pos h2]
      cases f <;> simp only [statusFlag_setStatusFlag, e1, e2, Bool.or_true, Bool.or_false,
        reduceIte, reduceCtorEq]
    · have e2 : decide (¬ (btn = 0x00 ∧ req ≠ 0x00) ∧ btn &&& ~~~req ≠ 0x00) = false :=
        decide_eq_false (fun h => h2 h.2)
      rw [if_neg h2]
      cases f <;> simp only [e1, e2, Bool.or_false]

@[simp] theorem regDone_btn (c : Config) (w : Word) (b : Block) :
    (regDone c w b).btn = buttonByte w := by
  simp only [regDone, Block.btn]
  split <;> simp

/-! ## Fields of `STATUS` and `CMD` through the updates -/

@[simp] theorem noteStatusChange_flag (a b : Block) (f : StatusFlag) :
    (noteStatusChange a b).flag f = b.flag f := rfl

@[simp] theorem noteStatusChange_btn (a b : Block) : (noteStatusChange a b).btn = b.btn := rfl

@[simp] theorem noteStatusChange_btnReq (a b : Block) :
    (noteStatusChange a b).btnReq = b.btnReq := rfl

@[simp] theorem noteStatusChange_dataAvail (a b : Block) :
    (noteStatusChange a b).dataAvail = (b.dataAvail || decide (b.status ≠ a.status)) := by
  simp only [Block.dataAvail, noteStatusChange_unreadStatus, noteStatusChange_unreadSnapshot]
  cases b.unreadStatus <;> cases b.unreadSnapshot <;> simp

@[simp] theorem storeBulkByte_flag (v : Byte) (b : Block) (f : StatusFlag) :
    (storeBulkByte v b).flag f = b.flag f := by simp [Block.flag]

@[simp] theorem storeBulkByte_btn (v : Byte) (b : Block) : (storeBulkByte v b).btn = b.btn := by
  simp [Block.btn]

@[simp] theorem completeFrame_flag (c : Config) (b : Block) (f : StatusFlag) :
    (completeFrame c b).flag f = (b.flag f || decide (f = .bulkLive)) := by
  cases f <;> simp [Block.flag]

@[simp] theorem completeFrame_btn (c : Config) (b : Block) : (completeFrame c b).btn = b.btn := by
  simp [Block.btn]

@[simp] theorem captureStart_btn (b : Block) : (captureStart b).btn = b.btn := rfl

@[simp] theorem captureStart_btnReq (b : Block) : (captureStart b).btnReq = b.btnReq := rfl

@[simp] theorem sampleLevels_btnReq (lv : BitVec 4) (b : Block) :
    (sampleLevels lv b).btnReq = b.btnReq := rfl

@[simp] theorem captureStop_highByte_cmd (b : Block) :
    highByte (captureStop b).cmd = highByte b.cmd := by simp [captureStop]

/-- The flags after an accepted `EV_REG_DONE` (42_register_capture.md R171, R174). -/
theorem regDone_flag (c : Config) (w : Word) (b : Block) (f : StatusFlag) :
    (regDone c w b).flag f =
      match f with
      | .regLive => true
      | .pf => b.flag .pf || (decide (buttonByte w ≠ b.btnReq ∧
          (nextMismatch c (buttonByte w) b.btnReq b.mmCnt).toNat = c.mismatchLimit) &&
          decide (buttonByte w = 0x00 ∧ b.btnReq ≠ 0x00))
      | .mp => b.flag .mp || (decide (buttonByte w ≠ b.btnReq ∧
          (nextMismatch c (buttonByte w) b.btnReq b.mmCnt).toNat = c.mismatchLimit) &&
          decide (¬ (buttonByte w = 0x00 ∧ b.btnReq ≠ 0x00) ∧
            buttonByte w &&& ~~~b.btnReq ≠ 0x00))
      | .pwr => b.flag .pwr
      | .stby => b.flag .stby
      | .red => b.flag .red
      | .white => b.flag .white
      | .bulkLive => b.flag .bulkLive := by
  simp only [regDone, Block.flag]
  split
  · rename_i h
    have e := decide_eq_true h
    cases f <;> simp only [statusFlag_classify, e, Bool.true_and] <;> simp
  · rename_i h
    have e := decide_eq_false h
    cases f <;> simp only [e, Bool.false_and, Bool.or_false] <;> simp

end Sys2Proof.Machine
end

