-- ==== Sys2Proof/Laws/Exec.lean ====
section
/-! SUPPORT. What an operation and a step can do, said once: the ends of a meaning, the fields around the
block, and the shape of a step. -/

namespace Sys2Proof.Machine

theorem accept_eq (s : State) (b : Block) :
    s.accept b = .next { s with
      block := noteStatusChange s.block b, report := some ⟨.accepted, none⟩ } := rfl

theorem respond_eq (s : State) (b : Block) (v : Word) :
    s.respond b v = .next { s with block := b, report := some ⟨.accepted, some v⟩ } := rfl

theorem drop_eq (s : State) : s.drop = .next { s with report := some ⟨.drop, none⟩ } := rfl

/-- How the meaning of an operation ends: an accepted event, an answered host operation, a dropped
event, no transition, a page out of range, or the fault no reachable state shows. -/
theorem exec_ends (i : Instr) (s : State) :
    (i.op.port = .event ∧ ∃ b, exec i s = s.accept b) ∨
    (i.op.port = .host ∧ ∃ b v, exec i s = s.respond b v) ∨
    (i.op.port = .event ∧ exec i s = s.drop) ∨
    exec i s = notEnabled i.op ∨
    (∃ p x, i = .hostReadPage p x ∧ pageInRange s.cfg p x = false ∧
      exec i s = s.illegal .host .range) ∨
    (∃ v, i = .evBulkByte v ∧ s.cfg.frameLen ≤ s.block.bulkPos.toNat ∧
      exec i s = .fault .rxIndexOutOfRange) := by
  cases i with
  | crcInit => exact .inr (.inl ⟨rfl, _, _, rfl⟩)
  | crcByte b => exact .inr (.inl ⟨rfl, _, _, rfl⟩)
  | crcRead => exact .inr (.inl ⟨rfl, _, _, rfl⟩)
  | crcCheck t => exact .inr (.inl ⟨rfl, _, _, rfl⟩)
  | evFrameEdge =>
    simp only [exec, execEvFrameEdge]
    split
    · exact .inl ⟨rfl, _, rfl⟩
    · exact .inr (.inr (.inl ⟨rfl, rfl⟩))
  | evSettleExpire =>
    simp only [exec, execEvSettleExpire]
    split
    · exact .inl ⟨rfl, _, rfl⟩
    · exact .inr (.inr (.inr (.inl rfl)))
  | evBulkByte v =>
    simp only [exec, execEvBulkByte]
    split
    · exact .inr (.inr (.inl ⟨rfl, rfl⟩))
    · split
      · rename_i h
        exact .inr (.inr (.inr (.inr (.inr ⟨v, rfl, h, rfl⟩))))
      · split <;> exact .inl ⟨rfl, _, rfl⟩
  | evBulkWdtExpire =>
    simp only [exec, execEvBulkWdtExpire]
    split
    · exact .inl ⟨rfl, _, rfl⟩
    · exact .inr (.inr (.inr (.inl rfl)))
  | evRegDone w =>
    simp only [exec, execEvRegDone]
    split
    · exact .inl ⟨rfl, _, rfl⟩
    · exact .inr (.inr (.inl ⟨rfl, rfl⟩))
  | evRegWdtExpire =>
    simp only [exec, execEvRegWdtExpire]
    split
    · exact .inl ⟨rfl, _, rfl⟩
    · exact .inr (.inr (.inr (.inl rfl)))
  | evPoll lv => exact .inl ⟨rfl, _, rfl⟩
  | evStbyExpire =>
    simp only [exec, execEvStbyExpire]
    split
    · exact .inl ⟨rfl, _, rfl⟩
    · exact .inr (.inr (.inr (.inl rfl)))
  | parse =>
    simp only [exec, execParse]
    split
    · exact .inl ⟨rfl, _, rfl⟩
    · exact .inr (.inr (.inr (.inl rfl)))
  | hostReadStatus => exact .inr (.inl ⟨rfl, _, _, rfl⟩)
  | hostReadCmd => exact .inr (.inl ⟨rfl, _, _, rfl⟩)
  | hostWriteCmd w => exact .inr (.inl ⟨rfl, _, _, rfl⟩)
  | hostSetLock e => exact .inr (.inl ⟨rfl, _, _, rfl⟩)
  | hostReadPage p x =>
    cases h : pageInRange s.cfg p x with
    | true =>
      exact .inr (.inl ⟨rfl, s.block, _, by
        simp only [exec, execHostReadPage, h, if_true]; rfl⟩)
    | false =>
      exact .inr (.inr (.inr (.inr (.inl ⟨p, x, rfl, h, by
        simp [exec, execHostReadPage, h]⟩))))
  | hostClearUnreadSnap => exact .inr (.inl ⟨rfl, _, _, rfl⟩)
  | hostReadFlags => exact .inr (.inl ⟨rfl, _, _, rfl⟩)
  | hostReadDiag => exact .inr (.inl ⟨rfl, _, _, rfl⟩)

/-- An operation that has a transition leaves the parameters, the queue and the reset level alone. -/
theorem exec_around {i : Instr} {s t : State} (h : exec i s = .next t) :
    t.cfg = s.cfg ∧ t.inputs = s.inputs ∧ t.inReset = s.inReset := by
  rcases exec_ends i s with ⟨-, b, e⟩ | ⟨-, b, v, e⟩ | ⟨-, e⟩ | e | ⟨p, x, -, -, e⟩ | ⟨v, -, -, e⟩ <;>
    rw [e] at h
  · rw [accept_eq] at h; cases h; exact ⟨rfl, rfl, rfl⟩
  · rw [respond_eq] at h; cases h; exact ⟨rfl, rfl, rfl⟩
  · rw [drop_eq] at h; cases h; exact ⟨rfl, rfl, rfl⟩
  · cases h
  · simp only [State.illegal] at h; cases h; exact ⟨rfl, rfl, rfl⟩
  · cases h

/-- The queue does not influence an operation: it runs alike in front of any other queue. -/
theorem exec_with_inputs (i : Instr) (s : State) (q : List Input) :
    exec i { s with inputs := q } =
      match exec i s with
      | .next t => .next { t with inputs := q }
      | .fault f => .fault f
      | .refused r => .refused r := by
  cases i with
  | evFrameEdge => simp only [exec, execEvFrameEdge]; split_ifs <;> rfl
  | evSettleExpire => simp only [exec, execEvSettleExpire]; split_ifs <;> rfl
  | evBulkByte v => simp only [exec, execEvBulkByte]; split_ifs <;> rfl
  | evBulkWdtExpire => simp only [exec, execEvBulkWdtExpire]; split_ifs <;> rfl
  | evRegDone w => simp only [exec, execEvRegDone]; split_ifs <;> rfl
  | evRegWdtExpire => simp only [exec, execEvRegWdtExpire]; split_ifs <;> rfl
  | evStbyExpire => simp only [exec, execEvStbyExpire]; split_ifs <;> rfl
  | parse => simp only [exec, execParse]; split_ifs <;> rfl
  | hostReadPage p x => simp only [exec, execHostReadPage]; split_ifs <;> rfl
  | _ => rfl

theorem performOp_with_inputs (i : Instr) (s : State) (q : List Input) :
    performOp i { s with inputs := q } =
      match performOp i s with
      | .next t => .next { t with inputs := q }
      | .fault f => .fault f
      | .refused r => .refused r := by
  unfold performOp settleOutcome
  rw [exec_with_inputs]
  cases exec i s with
  | next t => rfl
  | fault f => rfl
  | refused r => cases r <;> rfl

@[simp] theorem step_nil {s : State} (h : s.inputs = []) : step s = .next s := by
  unfold step takeNext
  rw [h]

theorem step_cons {s : State} {x : Input} {rest : List Input} (h : s.inputs = x :: rest) :
    step s = takeInput x { s with inputs := rest } := by
  unfold step takeNext
  rw [h]

/-- What a step can do: nothing arrived, a reset edge, a word lost under reset, an illegal word, or a
legal operation performed. -/
theorem step_cases (s : State) :
    (s.inputs = [] ∧ step s = .next s) ∨
    (∃ a rest, s.inputs = .reset a :: rest ∧
      step s = State.resetEdge { s with inputs := rest } a) ∨
    (∃ p w rest, s.inputs = .op p w :: rest ∧ s.inReset = true ∧
      step s = State.lose { s with inputs := rest }) ∨
    (∃ p w rest e, s.inputs = .op p w :: rest ∧ s.inReset = false ∧
      decode s.cfg p w = .error e ∧ step s = State.illegal { s with inputs := rest } p e) ∨
    (∃ p w rest i, s.inputs = .op p w :: rest ∧ s.inReset = false ∧
      decode s.cfg p w = .ok i ∧ step s = performOp i { s with inputs := rest }) := by
  cases hq : s.inputs with
  | nil => exact .inl ⟨rfl, step_nil hq⟩
  | cons x rest =>
    rw [step_cons hq]
    cases x with
    | reset a => exact .inr (.inl ⟨a, rest, rfl, rfl⟩)
    | op p w =>
      cases hr : s.inReset with
      | true => exact .inr (.inr (.inl ⟨p, w, rest, rfl, rfl, by simp [takeInput, takeWord]⟩))
      | false =>
        cases hd : decode s.cfg p w with
        | error e =>
          exact .inr (.inr (.inr (.inl ⟨p, w, rest, e, rfl, rfl, hd, by
            simp [takeInput, takeWord, hd]⟩)))
        | ok i =>
          exact .inr (.inr (.inr (.inr ⟨p, w, rest, i, rfl, rfl, hd, by
            simp [takeInput, takeWord, hd]⟩)))

/-! ## Lists of indexes -/

theorem mem_pageKeys {c : Config} {k : Nat} :
    k ∈ pageKeys c ↔ ∃ q < Config.pages, ∃ i < c.pageWords, k = pageKey (q + 1) i := by
  simp only [pageKeys, List.mem_flatMap, List.mem_range, List.mem_map]
  constructor
  · rintro ⟨q, hq, i, hi, rfl⟩; exact ⟨q, hq, i, hi, rfl⟩
  · rintro ⟨q, hq, i, hi, rfl⟩; exact ⟨q, hq, i, hi, rfl⟩

/-- The parser fills exactly the indexes of the space `PG`. -/
theorem mem_pageKeys_iff_ok {c : Config} (hc : c.pageWords ≤ 256) {k : Nat} :
    k ∈ pageKeys c ↔ pageKeyOk c k = true := by
  rw [mem_pageKeys]
  have hp : Config.pages = 5 := rfl
  simp only [pageKeyOk, pageKey, Bool.and_eq_true, decide_eq_true_eq]
  constructor
  · rintro ⟨q, hq, i, hi, rfl⟩; omega
  · rintro ⟨⟨h1, h2⟩, h3⟩
    exact ⟨k / 256 - 1, by omega, k % 256, h3, by omega⟩

end Sys2Proof.Machine
end

