-- ==== Sys2Proof/Laws/Invariant.lean ====
section
/-! SUPPORT. The invariant of 10_state.md R46 through each named update of the block. -/

namespace Sys2Proof.Machine

/-- The note of a status change keeps the invariant. -/
theorem inv_noteStatusChange {c : Config} {a b : Block} (h : b.Inv c) :
    (noteStatusChange a b).Inv c := by
  obtain ⟨h1, h2, h3, h4, h5, h6, h7, h8, h9, h10, h11, h12, h13, h14, h15, h16, h17, h18, h19, h20,
    h21⟩ := h
  constructor <;> simpa [Block.lit]

/-- Storing a received byte keeps the invariant. -/
theorem inv_storeBulkByte {c : Config} {b : Block} (h : b.Inv c) (v : Byte) :
    (storeBulkByte v b).Inv c := by
  obtain ⟨h1, h2, h3, h4, h5, h6, h7, h8, h9, h10, h11, h12, h13, h14, h15, h16, h17, h18, h19, h20,
    h21⟩ := h
  have w0 := wf_write h14 b.bulkPos.toNat v
  have w1 := wf_write h15 b.bulkPos.toNat v
  have i0 := within_write h18 (k := b.bulkPos.toNat) (by simpa using h13) v
  have i1 := within_write h19 (k := b.bulkPos.toNat) (by simpa using h13) v
  cases ha : b.bulkAct <;>
    constructor <;>
    first
      | simpa [Block.lit]
      | (simp [storeBulkByte, Block.setRx, Block.rx, ha]; assumption)

/-- The completion of a frame keeps the invariant. -/
theorem inv_completeFrame {c : Config} (hc : c.wf) {b : Block} (h : b.Inv c)
    (hx : b.bulkSt = .xfer) : (completeFrame c b).Inv c := by
  obtain ⟨h1, h2, h3, h4, h5, h6, h7, h8, h9, h10, h11, h12, h13, h14, h15, h16, h17, h18, h19, h20,
    h21⟩ := h
  have hcap := h2.1 (by simp [hx])
  have hf : 0 < c.frameLen := hc.1.1
  have hcc := wf_writeAll h16 (Memory.read (b.rx b.bulkAct)) (List.range c.frameLen)
  have hcw := within_writeAll h20 (Memory.read (b.rx b.bulkAct)) (ks := List.range c.frameLen)
    (by intro k hk; simpa using hk)
  constructor <;>
    first
      | (simp_all [Block.lit]; done)
      | (simp [completeFrame]; split <;> simp_all [copyFrame])

/-- A poll keeps the invariant. -/
theorem inv_poll {c : Config} (hc : c.wf) {b : Block} (h : b.Inv c) (lv : BitVec 4) :
    (startOrStop (sampleLevels lv b)).Inv c := by
  obtain ⟨h1, h2, h3, h4, h5, h6, h7, h8, h9, h10, h11, h12, h13, h14, h15, h16, h17, h18, h19, h20,
    h21⟩ := h
  have hf : 0 < c.frameLen := hc.1.1
  have f := sampleLevels_flag lv b
  have fp := f .pwr
  have fr := f .red
  have fw := f .white
  have fs := f .stby
  have fb := f .bulkLive
  have fg := f .regLive
  simp only [h7, h8, h9] at fp fr fw
  have e : ∀ x y : Bool, (x != (y != x)) = y := by decide
  rw [e] at fp fr fw
  have hs : (b.flag .stby || standbyRises b.lastLvl lv) = true →
      (b.stbyArmed || standbyRises b.lastLvl lv) = true := by
    intro h
    cases hb : b.flag .stby
    · simp only [hb, Bool.false_or] at h; simp [h]
    · simp [h11 hb]
  have hl : (sampleLevels lv b).lit = (levelRed lv || levelWhite lv) := by
    simp only [Block.lit, fr, fw]
  have hs' : ∀ x : Block, x.flag .stby = (sampleLevels lv b).flag .stby →
      x.stbyArmed = (sampleLevels lv b).stbyArmed → x.flag .stby = true → x.stbyArmed = true := by
    intro x e1 e2 h
    rw [e1, fs] at h
    rw [e2, sampleLevels_stbyArmed]
    exact hs h
  unfold startOrStop
  rw [hl]
  cases hL : (levelRed lv || levelWhite lv) <;> cases hC : b.capturing <;>
    simp only [sampleLevels_capturing, hC, Bool.not_true, Bool.not_false, Bool.and_true,
      Bool.and_false, reduceIte, Bool.false_eq_true] <;>
    refine ⟨?_, ?_, ?_, ?_, ?_, ?_, ?_, ?_, ?_, ?_, hs' _ ?_ ?_, ?_, ?_, ?_, ?_, ?_, ?_, ?_, ?_, ?_, ?_⟩
  all_goals clear f hs hs'
  all_goals simp_all [Block.lit]

end Sys2Proof.Machine
end

