-- ==== Sys2Proof/Laws/PerInstr.lean ====
section
/-! SUPPORT. The family `TableMatch`: the word of every operation matches its row of
spec/opcode_table.json (30_encoding.md R94). -/

namespace Sys2Proof.Laws.TableMatch

/-- "A word is that row's operation when `(word & mask) == match`" (30_encoding.md R94). -/
def Statement (i : Instr) : Prop := encode i &&& i.op.maskBits = i.op.matchBits

/-- The bits of the mask are those of the opcode, the reserved field and the form's must-be-zero bits,
and an encoded operation has the row's opcode there and zeros elsewhere. -/
theorem of_operand (i : Instr) : Statement i := by
  have hz : ∀ k, (i.operand.getLsbD k && i.op.form.mustBeZero.getLsbD k) = false := by
    intro k
    have := congrArg (fun v : Word => v.getLsbD k) (Machine.operand_mustBeZero i)
    simpa using this
  have hm : ∀ k, k < 16 → (0xFFFF0000#32).getLsbD k = false := by decide
  have hM : ∀ k, k < 32 → 16 ≤ k → (0xFFFF0000#32).getLsbD k = true := by decide
  have hmask : i.op.maskBits = 0xFFFF0000#32 ||| i.op.form.mustBeZero.setWidth 32 := rfl
  unfold Statement
  rw [hmask]
  apply BitVec.eq_of_getLsbD_eq
  intro k hk
  have hz' := hz k
  by_cases h : k < 16
  · have h24 : k < 24 := by omega
    simp only [encode, Op.matchBits, BitVec.getLsbD_and, BitVec.getLsbD_or, BitVec.getLsbD_shiftLeft,
      BitVec.getLsbD_setWidth, hm k h, hk, h24]
    simpa using hz'
  · have g : i.operand.getLsbD k = false := BitVec.getLsbD_of_ge _ k (by omega)
    simp only [encode, Op.matchBits, BitVec.getLsbD_and, BitVec.getLsbD_or, BitVec.getLsbD_shiftLeft,
      BitVec.getLsbD_setWidth, hM k hk (by omega), g]
    simp

theorem crcInit : Statement .crcInit := of_operand _

theorem crcByte (b : Byte) : Statement (.crcByte b) := of_operand _

theorem crcRead : Statement .crcRead := of_operand _

theorem crcCheck (t : Word) : Statement (.crcCheck t) := of_operand _

theorem evFrameEdge : Statement .evFrameEdge := of_operand _

theorem evSettleExpire : Statement .evSettleExpire := of_operand _

theorem evBulkByte (b : Byte) : Statement (.evBulkByte b) := of_operand _

theorem evBulkWdtExpire : Statement .evBulkWdtExpire := of_operand _

theorem evRegDone (w : Word) : Statement (.evRegDone w) := of_operand _

theorem evRegWdtExpire : Statement .evRegWdtExpire := of_operand _

theorem evPoll (lv : BitVec 4) : Statement (.evPoll lv) := of_operand _

theorem evStbyExpire : Statement .evStbyExpire := of_operand _

theorem parse : Statement .parse := of_operand _

theorem hostReadStatus : Statement .hostReadStatus := of_operand _

theorem hostReadCmd : Statement .hostReadCmd := of_operand _

theorem hostWriteCmd (w : Word) : Statement (.hostWriteCmd w) := of_operand _

theorem hostSetLock (e : Bool) : Statement (.hostSetLock e) := of_operand _

theorem hostReadPage (p i : Byte) : Statement (.hostReadPage p i) := of_operand _

theorem hostClearUnreadSnap : Statement .hostClearUnreadSnap := of_operand _

theorem hostReadFlags : Statement .hostReadFlags := of_operand _

theorem hostReadDiag : Statement .hostReadDiag := of_operand _

end Sys2Proof.Laws.TableMatch
end

