-- ==== Sys2Proof/Tests/Slice0.lean ====
section
/-! SUPPORT. Tests with expected values from spec/ (95_test_vectors.md and the examples of the rules), the
smoke test of the well-formedness check, and for each statement that has hypotheses a witness that meets
them. -/

open Sys2Proof Sys2Proof.Machine

namespace Sys2Proof.Tests

/-! ## Helpers -/

/-- A machine with parameters, a block and a queue. -/
def machine (c : Config) (b : Block) (q : List Input := []) : State :=
  { cfg := c, block := b, inputs := q, inReset := false, report := none }

/-- `FRAME_LEN = 2`, `PAGE_WORDS = 1`, as program P4 has it. -/
def two : Config := { frameLen := 2, pageWords := 1, mismatchLimit := 5 }

/-- `FRAME_LEN = 4`, `PAGE_WORDS = 1`, as program P2 has it. -/
def four : Config := { frameLen := 4, pageWords := 1, mismatchLimit := 5 }

/-- What a function of the next state says, where there is one. -/
def onNext {α : Type} (o : Host.Outcome State Fault Refusal) (f : State → α) : Option α :=
  match o with
  | .next t => some (f t)
  | .fault _ => none
  | .refused _ => none

/-- The refusal, where there is one. -/
def refusal (o : Host.Outcome State Fault Refusal) : Option Refusal :=
  match o with
  | .refused r => some r
  | .next _ => none
  | .fault _ => none

/-- The fault, where there is one. -/
def faultOf (o : Host.Outcome State Fault Refusal) : Option Fault :=
  match o with
  | .fault f => some f
  | .next _ => none
  | .refused _ => none

/-- The block after `EV_POLL 0b0100` from reset (43_detector.md R191, example). -/
def syncBlock : Block :=
  { Block.reset with
    status := 0x1000, unreadStatus := true, capturing := true, bulkSt := .sync
    regWdtArmed := true, lastLvl := 0b0100 }

/-- The block in `SETTLE` (41_bulk_capture.md R141, example). -/
def settleBlock : Block := { syncBlock with bulkSt := .settle, settleArmed := true }

/-- The block in `XFER` at a position (41_bulk_capture.md R142, example). -/
def xferBlock (pos : BitVec 11) : Block :=
  { syncBlock with bulkSt := .xfer, bulkPos := pos, bulkWdtArmed := true }

/-- A block in `XFER` with a frame pending for the parser. -/
def pendingBlock : Block :=
  { xferBlock 0 with cap := [(0, 0x34), (1, 0x12)], capturePending := true }

/-! ## Well-formedness: the one check refuses each of its ill-formed terms -/

theorem test_wf_page_zero : (Instr.hostReadPage 0 0).wf Config.standard = false := by decide

theorem test_wf_page_six : (Instr.hostReadPage 6 106).wf Config.standard = false := by decide

theorem test_wf_index_end : (Instr.hostReadPage 1 107).wf Config.standard = false := by decide

theorem test_wf_page_limits :
    (Instr.hostReadPage 1 0).wf Config.standard = true ∧
    (Instr.hostReadPage 5 106).wf Config.standard = true := by decide

/-! ## Decoding: one word per row, written from the opcode map (30_encoding.md R90, R92, R94, R101) -/

/-- CRC family: bits 31:24 are 0x01 to 0x04. -/
theorem test_decode_crc :
    decodeTableWord 32 0b00000001000000000000000000000000 = some .crcInit ∧
    decodeTableWord 32 0b00000010000000000000000010100101 = some (.crcByte 0xA5) ∧
    decodeTableWord 32 0b00000011000000000000000000000000 = some .crcRead ∧
    decodeTableWord 32 0b00000100000000001111100100110001 = some (.crcCheck 0xF931) := by decide

/-- Bulk family: bits 31:24 are 0x10 to 0x13. -/
theorem test_decode_bulk :
    decodeTableWord 32 0b00010000000000000000000000000000 = some .evFrameEdge ∧
    decodeTableWord 32 0b00010001000000000000000000000000 = some .evSettleExpire ∧
    decodeTableWord 32 0b00010010000000000000000010100101 = some (.evBulkByte 0xA5) ∧
    decodeTableWord 32 0b00010011000000000000000000000000 = some .evBulkWdtExpire := by decide

/-- Register, detector and parser families: bits 31:24 are 0x20, 0x21, 0x30, 0x31, 0x40. -/
theorem test_decode_register_detector_parser :
    decodeTableWord 32 0b00100000000000001111111111111110 = some (.evRegDone 0xFFFE) ∧
    decodeTableWord 32 0b00100001000000000000000000000000 = some .evRegWdtExpire ∧
    decodeTableWord 32 0b00110000000000000000000000001010 = some (.evPoll 0b1010) ∧
    decodeTableWord 32 0b00110001000000000000000000000000 = some .evStbyExpire ∧
    decodeTableWord 32 0b01000000000000000000000000000000 = some .parse := by decide

/-- Host family: bits 31:24 are 0x50 to 0x57. -/
theorem test_decode_host :
    decodeTableWord 32 0b01010000000000000000000000000000 = some .hostReadStatus ∧
    decodeTableWord 32 0b01010001000000000000000000000000 = some .hostReadCmd ∧
    decodeTableWord 32 0b01010010000000000000001000000001 = some (.hostWriteCmd 0x0201) ∧
    decodeTableWord 32 0b01010011000000000000000000000001 = some (.hostSetLock true) ∧
    decodeTableWord 32 0b01010100000000000000010101101010 = some (.hostReadPage 5 106) ∧
    decodeTableWord 32 0b01010101000000000000000000000000 = some .hostClearUnreadSnap ∧
    decodeTableWord 32 0b01010110000000000000000000000000 = some .hostReadFlags ∧
    decodeTableWord 32 0b01010111000000000000000000000000 = some .hostReadDiag := by decide

/-- Match and mask of every row, as spec/opcode_table.json prints them. -/
theorem test_match_and_mask :
    Op.all.map (fun o => (o.matchBits.toNat, o.maskBits.toNat)) =
      [(0x01000000, 0xFFFFFFFF), (0x02000000, 0xFFFFFF00), (0x03000000, 0xFFFFFFFF),
        (0x04000000, 0xFFFF0000), (0x10000000, 0xFFFFFFFF), (0x11000000, 0xFFFFFFFF),
        (0x12000000, 0xFFFFFF00), (0x13000000, 0xFFFFFFFF), (0x20000000, 0xFFFF0000),
        (0x21000000, 0xFFFFFFFF), (0x30000000, 0xFFFFFFF0), (0x31000000, 0xFFFFFFFF),
        (0x40000000, 0xFFFFFFFF), (0x50000000, 0xFFFFFFFF), (0x51000000, 0xFFFFFFFF),
        (0x52000000, 0xFFFF0000), (0x53000000, 0xFFFFFFFE), (0x54000000, 0xFFFF0000),
        (0x55000000, 0xFFFFFFFF), (0x56000000, 0xFFFFFFFF), (0x57000000, 0xFFFFFFFF)] := by decide

/-- 95_test_vectors.md E1 to E15. -/
theorem test_illegal_words :
    decode Config.standard .host 0x00000000 = .error .opcode ∧
    decode Config.standard .host 0x05000000 = .error .opcode ∧
    decode Config.standard .event 0xFF000000 = .error .opcode ∧
    decode Config.standard .host 0x10000000 = .error .port ∧
    decode Config.standard .event 0x01000000 = .error .port ∧
    decode Config.standard .host 0x01010000 = .error .reserved ∧
    decode Config.standard .host 0x01000001 = .error .operand ∧
    decode Config.standard .host 0x02000100 = .error .operand ∧
    decode Config.standard .host 0x53000002 = .error .operand ∧
    decode Config.standard .event 0x30000010 = .error .operand ∧
    decode Config.standard .event 0x11000001 = .error .operand ∧
    decode Config.standard .host 0x54000000 = .error .range ∧
    decode Config.standard .host 0x5400016B = .error .range ∧
    decode Config.standard .host 0x5400066A = .error .range ∧
    decode Config.standard .host 0x5401016B = .error .reserved := by decide

/-- "When an operation word is written as bytes, it is big-endian" (30_encoding.md R90). -/
theorem test_decode_bytes :
    decodeBytes Config.standard .host [0x54, 0x00, 0x05, 0x6A, 0x99] =
      .ok (.hostReadPage 5 106, [0x99]) ∧
    decodeBytes Config.standard .host [0x54, 0x00, 0x05] = .error .tooShort := by decide

/-- The texts of 30_encoding.md R101. -/
theorem test_trace_text :
    traceText (.crcByte 0x02) = "CRC_BYTE 0x02" ∧
    traceText (.evRegDone 0xFFFE) = "EV_REG_DONE 0xFFFE" ∧
    traceText (.evPoll 0b0100) = "EV_POLL 0b0100" ∧
    traceText (.hostReadPage 5 106) = "HOST_READ_PAGE 5, 106" := by decide

/-! ## CRC unit -/

/-- Check value of 40_crc.md R110, and the general-knowledge request there. -/
theorem test_crc_check_values :
    crc16 [0x31, 0x32, 0x33, 0x34, 0x35, 0x36, 0x37, 0x38, 0x39] = 0x4B37 ∧
    crc16 [0x01, 0x03, 0x00, 0x00, 0x00, 0x01] = 0x0A84 := by decide

/-- 95_test_vectors.md F1 to F6. -/
theorem test_frame_validate :
    frameValidate [0x02, 0x04, 0, 0, 0, 0x01, 0x31, 0xF9] 0x02 8 = .ok ∧
    frameValidate [0x02, 0x04, 0, 0, 0, 0x01, 0x31] 0x02 8 = .dropLength ∧
    frameValidate [0x03, 0x04, 0, 0, 0, 0x01, 0x31, 0xF9] 0x02 8 = .dropAddress ∧
    frameValidate [0x02, 0x04, 0, 0, 0, 0x01, 0xF9, 0x31] 0x02 8 = .dropCrc ∧
    frameValidate [0x02, 0x04, 0, 0, 0, 0x00, 0x31, 0xF9] 0x02 8 = .dropCrc ∧
    frameValidate [0x03, 0x04, 0, 0, 0, 0x01, 0x31, 0xF9, 0] 0x02 8 = .dropLength := by decide

/-- 95_test_vectors.md section 1.1: the response and the exception response. -/
theorem test_response_frames :
    readResponse 0x02 0x04 [0x0000] = [0x02, 0x04, 0x02, 0x00, 0x00, 0xFD, 0x30] ∧
    exceptionResponse 0x02 0x11 .illegalFunction = [0x02, 0x91, 0x01, 0x7C, 0x50] := by decide

/-- 40_crc.md R126: a byte count is the number of data bytes, up to what one byte holds. -/
theorem test_byte_count : byteCount 2 = 0x02 ∧ byteCount 254 = 0xFE := by decide

/-- 95_test_vectors.md F1 and F3 with `LOCAL_ADDR = 0x02`, and 20_memory.md R80 with a page base given. -/
theorem test_host_parameters :
    mayAnswer { localAddr := 0x02, page1Base := 500 } [0x02, 0x04, 0, 0, 0, 0x01, 0x31, 0xF9] =
      true ∧
    mayAnswer { localAddr := 0x02, page1Base := 500 } [0x03, 0x04, 0, 0, 0, 0x01, 0x31, 0xF9] =
      false ∧
    pageAddress { localAddr := 0x02, page1Base := 500 } 1 = 500 ∧
    pageAddress { localAddr := 0x02, page1Base := 500 } 5 = 4500 := by decide

/-- 40_crc.md R114, example. -/
theorem test_crc_init :
    onNext (exec .crcInit (machine two { Block.reset with crc := 0x1234 })) (fun t => t.block.crc) =
      some 0xFFFF := by decide

/-- 40_crc.md R115, example. -/
theorem test_crc_byte :
    onNext (exec (.crcByte 0x02) State.reset) (fun t => (t.block.crc, t.report)) =
      some (0x813E, some ⟨.accepted, some 0x0000⟩) := by decide

/-- 40_crc.md R116, example. -/
theorem test_crc_read :
    onNext (exec .crcRead (machine two { Block.reset with crc := 0xF931 })) (fun t => t.report) =
      some (some ⟨.accepted, some 0xF931⟩) := by decide

/-- 40_crc.md R117, example. -/
theorem test_crc_check :
    onNext (exec (.crcCheck 0xF931) (machine two { Block.reset with crc := 0xF931 }))
      (fun t => t.report) = some (some ⟨.accepted, some 0x0001⟩) ∧
    onNext (exec (.crcCheck 0x31F9) (machine two { Block.reset with crc := 0xF931 }))
      (fun t => t.report) = some (some ⟨.accepted, some 0x0000⟩) := by decide

/-! ## Bulk capture path -/

/-- 41_bulk_capture.md R141, example. -/
theorem test_frame_edge :
    onNext (exec .evFrameEdge (machine two syncBlock)) (fun t => t.block) = some settleBlock := by
  decide

/-- 95_test_vectors.md B1 (E16). -/
theorem test_frame_edge_dropped :
    onNext (step (State.reset.withFetchWord 32 0x10000000)) (fun t => (t.block, t.report)) =
      some (Block.reset, some ⟨.drop, none⟩) := by decide

/-- 41_bulk_capture.md R142, example. -/
theorem test_settle_expire :
    onNext (exec .evSettleExpire (machine two settleBlock)) (fun t => t.block) =
      some (xferBlock 0) := by decide

/-- 95_test_vectors.md E17, as the port reports it. -/
theorem test_settle_expire_not_enabled :
    refusal (exec .evSettleExpire State.reset) = some (.notEnabled .evSettleExpire) ∧
    onNext (step (State.reset.withFetchWord 32 0x11000000)) (fun t => (t.block, t.report)) =
      some (Block.reset, some ⟨.notEnabled, none⟩) := by decide

/-- 41_bulk_capture.md R143, example. -/
theorem test_bulk_byte_completion :
    onNext (exec (.evBulkByte 0x22) (machine two { xferBlock 1 with rx0 := [(0, 0x11)] }))
      (fun t => t.block) =
      some { xferBlock 0 with
        status := 0x5000, rx0 := [(0, 0x11), (1, 0x22)], cap := [(0, 0x11), (1, 0x22)]
        capturePending := true, bulkAct := .one } := by decide

/-- 95_test_vectors.md B5, last byte: the frame differs and one is pending, so it is not copied. -/
theorem test_bulk_byte_pending :
    onNext (exec (.evBulkByte 0x44) (machine two { xferBlock 1 with
        status := 0x5000, rx0 := [(0, 0x11), (1, 0x22)], rx1 := [(0, 0x33)]
        cap := [(0, 0x11), (1, 0x22)], capturePending := true, bulkAct := .one }))
      (fun t => (t.block.cap, t.block.bulkAct, flagsView t.block)) =
      some ([(0, 0x11), (1, 0x22)], .zero, 0x06F5) := by decide

/-- 41_bulk_capture.md R144, example. -/
theorem test_bulk_wdt_expire :
    onNext (exec .evBulkWdtExpire (machine Config.standard { xferBlock 500 with
        status := 0x5000, unreadStatus := false }))
      (fun t => (t.block.bulkSt, t.block.bulkPos, t.block.status, t.block.unreadStatus)) =
      some (.sync, 0, 0x1000, true) := by decide

/-! ## Register capture path -/

/-- 42_register_capture.md R171, example. -/
theorem test_reg_done :
    onNext (exec (.evRegDone 0xFFFE) (machine two syncBlock))
      (fun t => (t.block.status, t.block.mmCnt)) = some (0x9001, 1) := by decide

/-- 95_test_vectors.md G3 and G5, fifth completion: manual press, and the tolerated subset. -/
theorem test_reg_done_fifth :
    onNext (exec (.evRegDone 0xFFFE) (machine two { syncBlock with status := 0x9001, mmCnt := 4 }))
      (fun t => (t.block.status, t.block.mmCnt)) = some (0x9101, 5) ∧
    onNext (exec (.evRegDone 0xFFFE) (machine two { syncBlock with
        status := 0x9001, mmCnt := 4, cmd := 0x0003 }))
      (fun t => (t.block.status, t.block.mmCnt)) = some (0x9001, 5) := by decide

/-- 42_register_capture.md R175, example. -/
theorem test_reg_wdt_expire :
    onNext (exec .evRegWdtExpire (machine two { syncBlock with
        status := 0xC105, cmd := 0x0305, unreadStatus := false }))
      (fun t => (t.block.status, t.block.cmd, t.block.mmCnt, t.block.unreadStatus)) =
      some (0x4100, 0x0300, 0, true) := by decide

/-! ## Detector -/

/-- 43_detector.md R191, example. -/
theorem test_poll_starts :
    onNext (step (State.reset.withFetchWord 32 0x30000004)) (fun t => t.block) =
      some syncBlock := by decide

/-- 95_test_vectors.md T7, the poll that stops capture. -/
theorem test_poll_stops :
    onNext (exec (.evPoll 0b0000) (machine two { syncBlock with
        status := 0x9200, cmd := 0x0301, mmCnt := 5 }))
      (fun t => (t.block.status, t.block.cmd, t.block.mmCnt, t.block.bulkSt)) =
      some (0x0200, 0x0300, 0, .idle) := by decide

/-- 43_detector.md R196, example. -/
theorem test_stby_expire :
    onNext (exec .evStbyExpire (machine two { Block.reset with status := 0x0800, stbyArmed := true }))
      (fun t => (t.block.status, t.block.stbyArmed, t.block.unreadStatus)) =
      some (0x0000, false, true) := by decide

/-! ## Parser -/

/-- 44_parser.md R210, example (95_test_vectors.md P-1). -/
theorem test_parse :
    onNext (exec .parse (machine four { Block.reset with
        cap := [(0, 0x34), (1, 0x12), (2, 0x78), (3, 0x56)], capturePending := true }))
      (fun t => ([1, 2, 3, 4, 5].map (fun p => t.block.pageWordAt p 0), t.block.capturePending,
        t.block.unreadSnapshot)) =
      some ([0x1234, 0x5678, 0x0000, 0x0000, 0x0000], false, true) := by decide

/-- 95_test_vectors.md P-2: an odd last byte is padded with zero. -/
theorem test_parse_odd :
    onNext (exec .parse (machine { four with frameLen := 3 } { Block.reset with
        cap := [(0, 0xA1), (1, 0xB2), (2, 0xC3)], capturePending := true }))
      (fun t => [1, 2, 3, 4, 5].map (fun p => t.block.pageWordAt p 0)) =
      some [0xB2A1, 0x00C3, 0x0000, 0x0000, 0x0000] := by decide

/-! ## Host operations -/

/-- 45_host.md R231, example (95_test_vectors.md H5). -/
theorem test_read_status :
    onNext (exec .hostReadStatus (machine two { syncBlock with status := 0x8301 }))
      (fun t => (t.report, t.block.status, t.block.unreadStatus)) =
      some (some ⟨.accepted, some 0x8301⟩, 0x8001, false) := by decide

/-- 45_host.md R232, example. -/
theorem test_read_cmd :
    onNext (exec .hostReadCmd (machine two { Block.reset with cmd := 0x0201 })) (fun t => t.report) =
      some (some ⟨.accepted, some 0x0201⟩) := by decide

/-- 45_host.md R233, example. -/
theorem test_write_cmd :
    onNext (exec (.hostWriteCmd 0x0201) State.reset) (fun t => (t.block.cmd, t.report)) =
      some (0x0201, some ⟨.accepted, some 0x0201⟩) := by decide

/-- 45_host.md R234, example. -/
theorem test_set_lock :
    onNext (exec (.hostSetLock true) State.reset) (fun t => t.block.snapshotLocked) = some true ∧
    onNext (exec (.hostSetLock false) (machine two { Block.reset with snapshotLocked := true }))
      (fun t => t.block.snapshotLocked) = some false := by decide

/-- 45_host.md R235, example. -/
theorem test_read_page :
    onNext (exec (.hostReadPage 1 0) (machine two { Block.reset with page := [(256, 0x1234)] }))
      (fun t => t.report) = some (some ⟨.accepted, some 0x1234⟩) ∧
    onNext (exec (.hostReadPage 6 0) (machine two { Block.reset with page := [(256, 0x1234)] }))
      (fun t => t.report) = some (some ⟨.illegal .range, some 5⟩) := by decide

/-- 45_host.md R236, example. -/
theorem test_clear_unread_snap :
    onNext (exec .hostClearUnreadSnap (machine two { Block.reset with unreadSnapshot := true }))
      (fun t => (t.block.unreadSnapshot, t.block.dataAvail)) = some (false, false) := by decide

/-- 45_host.md R237, example. -/
theorem test_read_flags :
    onNext (exec .hostReadFlags (machine two syncBlock)) (fun t => t.report) =
      some (some ⟨.accepted, some 0x0474⟩) := by decide

/-- 45_host.md R238, example. -/
theorem test_read_diag :
    onNext (exec .hostReadDiag (machine two syncBlock)) (fun t => t.report) =
      some (some ⟨.accepted, some 0x2000⟩) := by decide

/-! ## Witnesses: states and operands that meet the hypotheses of each statement, clause by clause -/

/-- The invariant holds at reset and in a state of a transfer that is under way. -/
theorem witness_inv_reset : (State.resetWith two).Inv :=
  ⟨by decide, by constructor <;> decide, by decide⟩

theorem witness_inv_xfer : (machine two pendingBlock).Inv :=
  ⟨by decide, by constructor <;> decide, by decide⟩

/-- The last position of a frame. -/
theorem witness_inv_last : (machine two (xferBlock 1)).Inv :=
  ⟨by decide, by constructor <;> decide, by decide⟩

/-- `ResetInputRestoresEveryElement`: the three heads of a queue. -/
theorem witness_ResetInputRestoresEveryElement :
    (machine two pendingBlock [.reset true]).inputs = .reset true :: [] ∧
    (machine two pendingBlock [.reset false]).inputs = .reset false :: [] ∧
    { machine two Block.reset [.op .host 0x01000000] with inReset := true }.inputs =
      .op .host 0x01000000 :: [] ∧
    { machine two Block.reset [.op .host 0x01000000] with inReset := true }.inReset = true := by
  decide

/-- `AfterResetOnlyHostAndPollRun`: an operation of each kind. -/
theorem witness_AfterResetOnlyHostAndPollRun :
    (Instr.hostReadPage 5 106).wf Config.standard = true ∧
    (Instr.hostReadPage 5 106).op.agent = .host ∧
    (Instr.evPoll 0b1111).wf Config.standard = true ∧ (Instr.evPoll 0b1111).op = .evPoll ∧
    Instr.parse.op.agent ≠ .host ∧ Instr.parse.op ≠ .evPoll := by decide

/-- `DecodeOfEncodeIsTheInstruction`: the boundary pages. -/
theorem witness_DecodeOfEncodeIsTheInstruction :
    (Instr.hostReadPage 1 0).wf Config.standard = true ∧
    (Instr.hostReadPage 5 106).wf Config.standard = true ∧
    (Instr.crcByte 0xFF).wf Config.standard = true := by decide

/-- `EncodeOfDecodeIsTheWord`. -/
theorem witness_EncodeOfDecodeIsTheWord :
    decode Config.standard .host 0x5400056A = .ok (.hostReadPage 5 106) := by decide

/-- `IllegalWordsRaiseTheFirstFailingCode`: no failing check, each code, and a queue on each port. -/
theorem witness_IllegalWordsRaiseTheFirstFailingCode :
    firstFailedCheck Config.standard .host 0x5400056A = none ∧
    firstFailedCheck Config.standard .host 0x58000000 = some .opcode ∧
    firstFailedCheck Config.standard .event 0x57000000 = some .port ∧
    firstFailedCheck Config.standard .host 0x57010000 = some .reserved ∧
    firstFailedCheck Config.standard .host 0x57000001 = some .operand ∧
    firstFailedCheck Config.standard .host 0x5400016B = some .range ∧
    (machine Config.standard Block.reset [.op .host 0x5400016B]).inReset = false ∧
    firstFailedCheck (machine Config.standard Block.reset [.op .host 0x5400016B]).cfg .host
      0x5400016B = some .range ∧
    firstFailedCheck (machine Config.standard Block.reset [.op .event 0x57000000]).cfg .event
      0x57000000 = some .port := by decide

/-- `RowsAreDisjointAndMatched`: a word of a row, and the one row with a range check. -/
theorem witness_RowsAreDisjointAndMatched :
    (0x54000000 : OpWord) &&& Op.hostReadPage.maskBits = Op.hostReadPage.matchBits ∧
    (0x120000A5 : OpWord) &&& Op.evBulkByte.maskBits = Op.evBulkByte.matchBits ∧
    decode Config.standard .event 0x120000A5 = .ok (.evBulkByte 0xA5) := by decide

/-- `StepRunsTheDecodedOperation`: a next state, the fault, a refusal, an empty queue. -/
theorem witness_StepRunsTheDecodedOperation :
    decode two .host 0x01000000 = .ok .crcInit ∧
    onNext (exec .crcInit (machine two Block.reset)) (fun t => t.block.crc) = some 0xFFFF ∧
    decode two .event 0x12000011 = .ok (.evBulkByte 0x11) ∧
    faultOf (exec (.evBulkByte 0x11) (machine two (xferBlock 2))) = some .rxIndexOutOfRange ∧
    decode two .event 0x11000000 = .ok .evSettleExpire ∧
    refusal (exec .evSettleExpire (machine two Block.reset)) = some (.notEnabled .evSettleExpire) ∧
    (machine two Block.reset).inputs = [] ∧ (machine two Block.reset).inReset = false := by decide

/-- `QueueRunsOneOperationAtATime`: two operations and one word behind them. -/
theorem witness_QueueRunsOneOperationAtATime :
    (machine two Block.reset [.op .host 0x01000000, .op .event 0x30000004, .reset true]).inputs =
      [Instr.crcInit, Instr.evPoll 0b0100].map arrival ++ [.reset true] ∧
    (∀ i ∈ [Instr.crcInit, Instr.evPoll 0b0100], i.wf two = true) ∧
    onNext (performAll [.crcInit, .evPoll 0b0100] (machine two Block.reset [.reset true]))
      (fun t => t.inputs) = some [.reset true] := by decide

/-- `ResetSatisfiesTheInvariants`: the least, the printed and the greatest parameters. -/
theorem witness_ResetSatisfiesTheInvariants :
    Config.wf { frameLen := 1, pageWords := 1, mismatchLimit := 1 } ∧ Config.wf Config.standard ∧
    Config.wf { frameLen := 2048, pageWords := 256, mismatchLimit := 7 } := by decide

/-- `StepKeepsTheInvariants` and `NoStepStopsTheMachine`: a state with the invariant and a step. -/
theorem witness_StepKeepsTheInvariants :
    (machine two pendingBlock).Inv ∧
    onNext (step ((machine two pendingBlock).withFetchWord 32 0x40000000))
      (fun t => t.block.unreadSnapshot) = some true :=
  ⟨witness_inv_xfer, by decide⟩

theorem witness_NoStepStopsTheMachine :
    (machine two pendingBlock).Inv ∧
    faultOf (exec (.evBulkByte 0x11) (machine two (xferBlock 2))) = some .rxIndexOutOfRange :=
  ⟨witness_inv_xfer, by decide⟩

/-- `PortsKeepToTheirOwnState`: a step on each port, and flags that stay up. -/
theorem witness_PortsKeepToTheirOwnState :
    onNext (step (machine two { syncBlock with status := 0x1300 } [.op .host 0x51000000]))
      (fun t => (t.block.flag .mp, t.block.flag .pf)) = some (true, true) ∧
    onNext (step (machine two syncBlock [.op .event 0x21000000])) (fun t => t.block.regWdtArmed) =
      some false := by decide

/-- The hypotheses of `RowEncodes` for each must-be-zero mask: an operand that is allowed at its greatest
value, one that is not, the other port, a reserved field. -/
theorem witness_RowEncodes :
    ((0x0000 : Word) &&& 0xFFFF = 0 ∧ (0x8000 : Word) &&& 0xFFFF ≠ 0) ∧
    ((0x00FF : Word) &&& 0xFF00 = 0 ∧ (0x0100 : Word) &&& 0xFF00 ≠ 0) ∧
    ((0xFFFF : Word) &&& 0x0000 = 0) ∧
    ((0x0001 : Word) &&& 0xFFFE = 0 ∧ (0x0002 : Word) &&& 0xFFFE ≠ 0) ∧
    ((0x000F : Word) &&& 0xFFF0 = 0 ∧ (0x0010 : Word) &&& 0xFFF0 ≠ 0) ∧
    Port.event ≠ Port.host ∧ (0x80 : Byte) ≠ 0 ∧
    (Instr.hostReadPage ((0x056A : Word).extractLsb' 8 8) ((0x056A : Word).extractLsb' 0 8)).wf
      Config.standard = true ∧
    (Instr.hostSetLock true).wf Config.standard = true := by decide

/-- `CrcCheckRule`: the remainder equal, and not. -/
theorem witness_CrcCheckRule :
    State.reset.block.crc = 0xFFFF ∧ State.reset.block.crc ≠ 0xFFFE := by decide

/-- `TableIsTheListedOne`: both ends of the table. -/
theorem witness_TableIsTheListedOne :
    0 < 256 ∧ crcTableListed.getD 0 0 = 0x0000 ∧ 255 < 256 ∧ crcTableListed.getD 255 0 = 0x4040 := by
  decide

/-- `ResidueIsZero`: the shortest frame, whose payload is empty. -/
theorem witness_ResidueIsZero :
    2 ≤ ([0xFF, 0xFF] : List Byte).length ∧ crc16 [0xFF, 0xFF] = 0x0000 := by decide

/-- `SingleBitErrorsAreDetected`: the first bit of the payload and the last bit of the trailer. -/
theorem witness_SingleBitErrorsAreDetected :
    0 < (frameGenerate [0x02, 0x04]).length ∧ 0 < 8 ∧ 3 < (frameGenerate [0x02, 0x04]).length ∧
    7 < 8 := by decide

/-- `FrameValidateChecksInOrder`: a frame for each of the four clauses. -/
theorem witness_FrameValidateChecksInOrder :
    2 ≤ 8 ∧ ([0x02, 0x04] : List Byte).length ≠ 8 ∧
    ([0x03, 0x04, 0, 0, 0, 0x01, 0x31, 0xF9] : List Byte).length = 8 ∧
    ([0x03, 0x04, 0, 0, 0, 0x01, 0x31, 0xF9] : List Byte).getD 0 0 ≠ 0x02 ∧
    crc16 (([0x02, 0x04, 0, 0, 0, 0x01, 0xF9, 0x31] : List Byte).take 6) ≠ 0x31F9 ∧
    crc16 (([0x02, 0x04, 0, 0, 0, 0x01, 0x31, 0xF9] : List Byte).take 6) = 0xF931 := by decide

/-- `CheckingARequestRespondsItsVerdict`: a right trailer and a wrong one. -/
theorem witness_CheckingARequestRespondsItsVerdict :
    trailerMatches [0x02, 0x04, 0, 0, 0, 0x01, 0x31, 0xF9] ∧
    ¬ trailerMatches [0x02, 0x04, 0, 0, 0, 0x01, 0xF9, 0x31] := by
  unfold trailerMatches; decide

/-- `FrameEdgeRule`: `SYNC`, and another state. -/
theorem witness_FrameEdgeRule :
    (machine two syncBlock).block.bulkSt = .sync ∧ State.reset.block.bulkSt ≠ .sync := by decide

/-- `SettleExpireRule`: armed and not. -/
theorem witness_SettleExpireRule :
    (machine two settleBlock).block.settleArmed = true ∧ State.reset.block.settleArmed = false := by
  decide

/-- `BulkByteRule`: not in `XFER`, a byte inside the frame, and a last byte of each kind (a differing
frame with none pending, a pending one, an equal frame). -/
theorem witness_BulkByteRule :
    State.reset.block.bulkSt ≠ .xfer ∧
    ((xferBlock 0).bulkSt = .xfer ∧ (xferBlock 0).bulkPos.toNat + 1 < two.frameLen ∧
      Memory.wf ((xferBlock 0).rx (xferBlock 0).bulkAct) = true) ∧
    ((xferBlock 1).bulkPos.toNat + 1 = two.frameLen ∧ Memory.wf (xferBlock 1).cap = true ∧
      (xferBlock 1).capturePending = false) ∧
    (∃ j, j < two.frameLen ∧ Memory.read (Memory.write (xferBlock 1).rx0 1 0x22) j ≠
      Memory.read (xferBlock 1).rx1 j) ∧
    { xferBlock 1 with capturePending := true }.capturePending = true ∧
    (∀ j, j < two.frameLen → Memory.read (Memory.write (xferBlock 1).rx0 1 0x00) j =
      Memory.read (xferBlock 1).rx1 j) := by
  refine ⟨by decide, by decide, by decide, ⟨1, by decide, by decide⟩, by decide, by decide⟩

/-- `BulkWatchdogRule`: armed and not. -/
theorem witness_BulkWatchdogRule :
    (xferBlock 1).bulkWdtArmed = true ∧ syncBlock.bulkWdtArmed = false := by decide

/-- `WholeFrameTransfer`: a frame of two bytes that differs, one that equals the other half's zeros, and a
pending frame. -/
theorem witness_WholeFrameTransfer :
    two.wf ∧ ([0x11, 0x22] : List Byte).length = two.frameLen ∧ (xferBlock 0).bulkSt = .xfer ∧
    (xferBlock 0).bulkPos = 0 ∧ Memory.wf (xferBlock 0).rx0 = true ∧
    Memory.wf (xferBlock 0).rx1 = true ∧ Memory.wf (xferBlock 0).cap = true ∧
    (xferBlock 0).capturePending = false ∧ ¬ Holds ((xferBlock 0).rx .one) [0x11, 0x22] ∧
    Holds ((xferBlock 0).rx .one) [0x00, 0x00] ∧ pendingBlock.capturePending = true := by
  refine ⟨by decide, by decide, by decide, by decide, by decide, by decide, by decide, by decide,
    fun h => absurd (h 0 (by decide)) (by decide), ?_, by decide⟩
  unfold Holds; decide

/-- `RepeatedFrameIsNeverCopied`. -/
theorem witness_RepeatedFrameIsNeverCopied :
    (machine two pendingBlock).Inv ∧ ([0x11, 0x22] : List Byte).length = two.frameLen ∧
    pendingBlock.bulkSt = .xfer ∧ pendingBlock.bulkPos = 0 ∧ pendingBlock.capturePending = true ∧
    pendingBlock.snapshotLocked = false :=
  ⟨witness_inv_xfer, by decide⟩

/-- `RegisterDoneRule`: not capturing, and while capturing the equal byte, a count below the limit and at
it, and the three classes. -/
theorem witness_RegisterDoneRule :
    State.reset.block.capturing = false ∧ two.wf ∧ syncBlock.capturing = true ∧
    buttonByte 0xFFFF = syncBlock.btnReq ∧ buttonByte 0xFFFE ≠ syncBlock.btnReq ∧
    onNext (exec (.evRegDone 0xFFFE) (machine two { syncBlock with mmCnt := 4 }))
      (fun t => t.block.mmCnt.toNat) = some two.mismatchLimit ∧
    onNext (exec (.evRegDone 0xFFFE) (machine two { syncBlock with mmCnt := 3 }))
      (fun t => decide (t.block.mmCnt.toNat ≠ two.mismatchLimit)) = some true ∧
    (buttonByte 0xFFFF = 0x00 ∧ { syncBlock with cmd := 0x0004 }.btnReq ≠ 0x00) ∧
    buttonByte 0xFFFC &&& ~~~({ syncBlock with cmd := 0x0001 }.btnReq) ≠ 0x00 ∧
    (buttonByte 0xFFFE ≠ 0x00 ∧
      buttonByte 0xFFFE &&& ~~~({ syncBlock with cmd := 0x0003 }.btnReq) = 0x00) := by decide

/-- `RegisterDoneRule`, last clause: each of the three ways the counter changes. -/
theorem witness_RegisterDoneRule_counter :
    onNext (exec (.evRegDone 0xFFFE) (machine two syncBlock)) (fun t => t.block.mmCnt) = some 1 ∧
    onNext (exec .evRegWdtExpire (machine two { syncBlock with mmCnt := 2 }))
      (fun t => t.block.mmCnt) = some 0 ∧
    onNext (exec (.evPoll 0) (machine two { syncBlock with mmCnt := 2 }))
      (fun t => (t.block.mmCnt, t.block.capturing)) = some (0, false) := by decide

/-- `RegisterWatchdogRule`: armed and not. -/
theorem witness_RegisterWatchdogRule :
    syncBlock.regWdtArmed = true ∧ State.reset.block.regWdtArmed = false := by decide

/-- `FaultNeedsConsecutiveMismatches`: three words below the limit, four just below it, and both
classes of the word that follows. -/
theorem witness_FaultNeedsConsecutiveMismatches :
    two.wf ∧ syncBlock.capturing = true ∧ syncBlock.mmCnt = 0 ∧
    (∀ w ∈ List.replicate 4 (0xFFFE : Word), buttonByte w ≠ syncBlock.btnReq) ∧
    3 < two.mismatchLimit ∧ two.mismatchLimit ≤ 4 + 1 ∧
    buttonByte 0xFFFE &&& ~~~syncBlock.btnReq ≠ 0x00 ∧
    (∀ w ∈ List.replicate 4 (0xFFFF : Word),
      buttonByte w ≠ { syncBlock with cmd := 0x0004 }.btnReq) ∧
    buttonByte 0xFFFF = 0x00 ∧ { syncBlock with cmd := 0x0004 }.btnReq ≠ 0x00 := by
  refine ⟨by decide, by decide, by decide, fun w h => ?_, by decide, by decide, by decide,
    fun w h => ?_, by decide, by decide⟩ <;>
  · rw [List.eq_of_mem_replicate h]; decide

/-- `StatusReadDoesNotMaskAFault`: both classes at the limit. -/
theorem witness_StatusReadDoesNotMaskAFault :
    two.wf ∧ { syncBlock with mmCnt := 5 }.capturing = true ∧
    { syncBlock with mmCnt := 5 }.mmCnt.toNat = two.mismatchLimit ∧
    buttonByte 0xFFFE &&& ~~~syncBlock.btnReq ≠ 0x00 ∧
    buttonByte 0xFFFF ≠ { syncBlock with cmd := 0x0004 }.btnReq ∧ buttonByte 0xFFFF = 0x00 := by
  decide

/-- `PollRule`: a poll that starts, one that stops, and one that does neither. -/
theorem witness_PollRule :
    onNext (exec (.evPoll 0b0100) State.reset) (fun t => t.block.flag .red || t.block.flag .white) =
      some true ∧ State.reset.block.capturing = false ∧
    onNext (exec (.evPoll 0b0000) (machine two syncBlock))
      (fun t => t.block.flag .red || t.block.flag .white) = some false ∧ syncBlock.capturing = true ∧
    onNext (exec (.evPoll 0b1000) (machine two syncBlock))
      (fun t => (t.block.flag .red || t.block.flag .white) == syncBlock.capturing) = some true := by
  decide

/-- `PollOfTheSameLevelsChangesNothing`. -/
theorem witness_PollOfTheSameLevelsChangesNothing : (machine two (xferBlock 1)).Inv :=
  witness_inv_last

/-- `StandbyExpireRule`: armed and not. -/
theorem witness_StandbyExpireRule :
    { Block.reset with stbyArmed := true }.stbyArmed = true ∧
    State.reset.block.stbyArmed = false := by decide

/-- `OnlyPollsStartAndStopCapture`. -/
theorem witness_OnlyPollsStartAndStopCapture :
    onNext (exec (.evPoll 0b0100) State.reset) (fun t => t.block.capturing) = some true ∧
    State.reset.block.capturing = false := by decide

/-- `ParseRule`: nothing pending, locked, enabled, and the page indexes at their ends. -/
theorem witness_ParseRule :
    State.reset.block.capturePending = false ∧
    { pendingBlock with snapshotLocked := true }.snapshotLocked = true ∧
    (Config.standard.wf ∧ Memory.wf pendingBlock.page = true ∧ pendingBlock.capturePending = true ∧
      pendingBlock.snapshotLocked = false) ∧
    (1 ≤ 1 ∧ 1 ≤ 5 ∧ 0 < Config.standard.pageWords) ∧ (1 ≤ 5 ∧ 106 < Config.standard.pageWords) ∧
    pageKeyOk Config.standard (pageKey 5 107) = false := by decide

/-- `ParseDependsOnTheFrameAlone`: two states with the same frame and different pages. -/
theorem witness_ParseDependsOnTheFrameAlone :
    two.wf ∧ Memory.wf pendingBlock.page = true ∧
    Memory.wf { pendingBlock with page := [(256, 0x1234)] }.page = true ∧
    (∀ j, j < two.frameLen → Memory.read pendingBlock.cap j =
      Memory.read { pendingBlock with page := [(256, 0x1234)] }.cap j) ∧
    onNext (exec .parse (machine two pendingBlock)) (fun t => t.block.pageWordAt 1 0) =
      some 0x1234 ∧
    onNext (exec .parse (machine two { pendingBlock with page := [(256, 0x9999)] }))
      (fun t => t.block.pageWordAt 1 0) = some 0x1234 := by decide

/-- `FrameByteIsAtItsPageWord`: an even and an odd byte. -/
theorem witness_FrameByteIsAtItsPageWord :
    two.wf ∧ Memory.wf pendingBlock.page = true ∧
    onNext (exec .parse (machine two pendingBlock)) (fun t => t.block.unreadSnapshot) = some true ∧
    (0 < two.frameLen ∧ 0 < 2 * 5 * two.pageWords) ∧ 0 % 2 = 0 ∧
    (1 < two.frameLen ∧ 1 < 2 * 5 * two.pageWords) ∧ 1 % 2 = 1 := by decide

/-- `LockedSnapshotIsStable`: a locked session with a parse that has no transition. -/
theorem witness_LockedSnapshotIsStable :
    { pendingBlock with snapshotLocked := true }.snapshotLocked = true ∧
    (∀ i ∈ [Instr.parse, Instr.hostReadPage 1 0], i ≠ .hostSetLock false) ∧
    onNext (performAll [.parse, .hostReadPage 1 0]
      (machine two { pendingBlock with snapshotLocked := true }))
      (fun t => t.block.capturePending) = some true ∧
    pageInRange two 5 0 = true := by decide

/-- `PendingFrameIsKeptForTheParser`: a copy, and a parse. -/
theorem witness_PendingFrameIsKeptForTheParser :
    onNext (exec (.evBulkByte 0x22) (machine two (xferBlock 1)))
      (fun t => (t.block.cap, t.block.capturePending)) = some ([(1, 0x22)], true) ∧
    (xferBlock 1).capturePending = false ∧ (xferBlock 1).cap = [] ∧
    pendingBlock.capturePending = true ∧
    onNext (exec .parse (machine two pendingBlock)) (fun t => t.block.capturePending) =
      some false := by decide

/-- `OrderDecidesParseAgainstLock`. -/
theorem witness_OrderDecidesParseAgainstLock :
    pendingBlock.capturePending = true ∧ pendingBlock.snapshotLocked = false := by decide

/-- `ReadPageRule`: in range at both ends, and outside on each side. -/
theorem witness_ReadPageRule :
    (1 ≤ (1 : Byte).toNat ∧ (1 : Byte).toNat ≤ 5 ∧ (0 : Byte).toNat < Config.standard.pageWords) ∧
    (1 ≤ (5 : Byte).toNat ∧ (5 : Byte).toNat ≤ 5 ∧
      (106 : Byte).toNat < Config.standard.pageWords) ∧
    (0 : Byte).toNat < 1 ∧ 5 < (6 : Byte).toNat ∧
    Config.standard.pageWords ≤ (107 : Byte).toNat := by decide

/-- `EveryOperationWritesOnlyItsElements`: a next state and an element that is not written; a byte at the
last position, with the indexes on both sides of it; a parse, and an index just past the pages. -/
theorem witness_EveryOperationWritesOnlyItsElements :
    onNext (exec .parse (machine two pendingBlock)) (fun t => t.block.capturePending) = some false ∧
    Element.crc ∉ opWrites Instr.parse.op ∧
    onNext (exec (.evBulkByte 0x22) (machine two { xferBlock 1 with
        rx0 := [(0, 0x11)], rx1 := [(1, 0x33)] }))
      (fun t => (t.block.rx0, t.block.rx1)) = some ([(0, 0x11), (1, 0x22)], [(1, 0x33)]) ∧
    (0 ≠ (xferBlock 1).bulkPos.toNat ∧ 2 ≠ (xferBlock 1).bulkPos.toNat ∧ two.frameLen ≤ 2 ∧
      (xferBlock 0).bulkPos.toNat + 1 < two.frameLen ∧ pendingBlock.capturePending = true ∧
      Block.reset.bulkSt ≠ .xfer) ∧
    pageKey 5 1 ∉ pageKeys two ∧ pageKey 0 0 ∉ pageKeys two := by decide

/-- `UnreadStatusFollowsStatusChanges`: an event that sets the flag, as a step. -/
theorem witness_UnreadStatusFollowsStatusChanges :
    (Instr.evPoll 0b0100).op.agent ≠ .host ∧
    onNext (exec (.evPoll 0b0100) State.reset) (fun t => t.report) = some (some ⟨.accepted, none⟩) ∧
    State.reset.block.unreadStatus = false ∧
    onNext (step (State.reset.withFetchWord 32 0x30000004)) (fun t => t.block.unreadStatus) =
      some true := by decide

/-- `EventsRunExactlyWhenEnabled`: an event that acknowledges itself, a dropped and a not enabled one. -/
theorem witness_EventsRunExactlyWhenEnabled :
    (Instr.parse.op.agent ≠ .host ∧ pendingBlock.bulkPos.toNat < two.frameLen ∧
      opEnabled pendingBlock Instr.parse.op = true ∧ opPhysical Instr.parse.op = false) ∧
    (State.reset.block.bulkPos.toNat < State.reset.cfg.frameLen ∧
      opEnabled Block.reset Instr.evFrameEdge.op = false ∧ opPhysical Instr.evFrameEdge.op = true) ∧
    (opEnabled Block.reset Instr.parse.op = false) := by decide

/-- `DataAvailRisesAndFalls`: a rise by a poll and by a parse, a fall by each acknowledgement. -/
theorem witness_DataAvailRisesAndFalls :
    State.reset.block.dataAvail = false ∧
    onNext (exec (.evPoll 0b0100) State.reset) (fun t => (t.block.dataAvail, t.report)) =
      some (true, some ⟨.accepted, none⟩) ∧
    onNext (exec .parse (machine two { pendingBlock with unreadStatus := false }))
      (fun t => t.block.dataAvail) = some true ∧
    syncBlock.dataAvail = true ∧
    onNext (exec .hostReadStatus (machine two syncBlock)) (fun t => t.block.dataAvail) =
      some false ∧
    onNext (exec .hostClearUnreadSnap (machine two { Block.reset with unreadSnapshot := true }))
      (fun t => t.block.dataAvail) = some false := by decide

/-- `StickyFlagsClearOnlyOnStatusRead`: a read that clears, a completion that sets, and both ways a step
clears. -/
theorem witness_StickyFlagsClearOnlyOnStatusRead :
    onNext (exec .hostReadStatus (machine two { syncBlock with status := 0x1300 }))
      (fun t => (t.block.flag .mp, t.block.flag .pf)) = some (false, false) ∧
    onNext (exec (.evRegDone 0xFFFE) (machine two { syncBlock with mmCnt := 4 }))
      (fun t => t.block.flag .mp) = some true ∧
    syncBlock.flag .mp = false ∧
    onNext (step (machine two { syncBlock with status := 0x1300 } [.op .host 0x50000000]))
      (fun t => t.block.flag .mp) = some false ∧
    onNext (step (machine two { syncBlock with status := 0x1300 } [.reset true]))
      (fun t => t.block.flag .mp) = some false := by decide

end Sys2Proof.Tests
end

section
/-! PROOFS. The frame of every operation: which elements each update of the block leaves alone, and from
that what each operation leaves alone. -/

namespace Sys2Proof.Machine

/-! ## Agreement outside a list of elements -/

/-- The second block agrees with the first on every element outside the list. -/
def Block.KeepsOutside (ws : List Element) (x y : Block) : Prop := ∀ e, e ∉ ws → x.agree y e

theorem agree_refl (x : Block) (e : Element) : x.agree x e := by
  cases e with
  | rxbuf a => exact fun _ => rfl
  | capbuf => exact fun _ => rfl
  | page => exact fun _ => rfl
  | _ => rfl

theorem agree_trans {x y z : Block} {e : Element} (hxy : x.agree y e) (hyz : y.agree z e) :
    x.agree z e := by
  cases e with
  | rxbuf a => exact fun k => (hxy k).trans (hyz k)
  | capbuf => exact fun k => (hxy k).trans (hyz k)
  | page => exact fun k => (hxy k).trans (hyz k)
  | _ => exact Eq.trans hxy hyz

theorem agree_rxbuf {x y : Block} (h0 : x.rx0 = y.rx0) (h1 : x.rx1 = y.rx1) (a : Half) :
    x.agree y (.rxbuf a) := fun k => by rw [rx_congr h0 h1 a]

theorem keepsOutside_refl (ws : List Element) (x : Block) : x.KeepsOutside ws x :=
  fun e _ => agree_refl x e

theorem keepsOutside_trans {ws : List Element} {x y z : Block} (hxy : x.KeepsOutside ws y)
    (hyz : y.KeepsOutside ws z) : x.KeepsOutside ws z :=
  fun e he => agree_trans (hxy e he) (hyz e he)

theorem keepsOutside_mono {vs ws : List Element} {x y : Block} (h : x.KeepsOutside vs y)
    (hsub : vs ⊆ ws) : x.KeepsOutside ws y :=
  fun e he => h e (fun hv => he (hsub hv))

/-! ## What the named updates leave alone -/

theorem noteStatusChange_keepsOutside (x y : Block) :
    y.KeepsOutside [.unreadStatus] (noteStatusChange x y) := by
  intro e he
  cases e with
  | unreadStatus => simp at he
  | rxbuf a => simp [Block.agree]
  | _ => simp [Block.agree]

theorem storeBulkByte_keepsOutside (v : Byte) (b : Block) :
    b.KeepsOutside [.rxbuf .zero, .rxbuf .one] (storeBulkByte v b) := by
  intro e he
  cases e with
  | rxbuf a => cases a <;> simp at he
  | _ => simp [Block.agree, Block.btnReq]

theorem setBulkPos_keepsOutside (b : Block) (n : BitVec 11) :
    b.KeepsOutside [.bulkPos] { b with bulkPos := n } := by
  intro e he
  cases e with
  | bulkPos => simp at he
  | rxbuf a => exact agree_rxbuf rfl rfl a
  | _ => simp [Block.agree, Block.flag, Block.btn, Block.btnReq]

theorem completeFrame_keepsOutside (c : Config) (b : Block) :
    b.KeepsOutside
      [.bulkPos, .capbuf, .capturePending, .bulkAct, .bulkWdtArmed, .statusFlag .bulkLive]
      (completeFrame c b) := by
  intro e he
  cases e with
  | statusFlag f => simp_all [Block.agree]
  | _ => simp_all [Block.agree, Block.btnReq]

theorem regDone_keepsOutside (c : Config) (w : Word) (b : Block) :
    b.KeepsOutside [.statusBtn, .statusFlag .regLive, .statusFlag .pf, .statusFlag .mp,
      .regWdtArmed, .mmCnt] (regDone c w b) := by
  intro e he
  cases e with
  | statusFlag f => cases f <;> simp_all [Block.agree, regDone_flag]
  | rxbuf a => exact agree_rxbuf rfl rfl a
  | _ => simp_all [Block.agree, Block.btnReq]

theorem sampleLevels_keepsOutside (lv : BitVec 4) (b : Block) :
    b.KeepsOutside [.statusFlag .pwr, .statusFlag .red, .statusFlag .white, .statusFlag .stby,
      .stbyArmed, .lastLvl] (sampleLevels lv b) := by
  intro e he
  cases e with
  | statusFlag f => cases f <;> simp_all [Block.agree, sampleLevels_flag]
  | rxbuf a => exact agree_rxbuf rfl rfl a
  | _ => simp_all [Block.agree]

theorem captureStart_keepsOutside (b : Block) :
    b.KeepsOutside [.capturing, .bulkSt, .bulkPos, .regWdtArmed] (captureStart b) := by
  intro e he
  cases e with
  | rxbuf a => exact agree_rxbuf rfl rfl a
  | _ => simp_all [Block.agree]

theorem captureStop_keepsOutside (b : Block) :
    b.KeepsOutside [.capturing, .bulkSt, .bulkPos, .settleArmed, .bulkWdtArmed, .regWdtArmed,
      .statusFlag .bulkLive, .statusFlag .regLive, .statusBtn, .cmdBtnReq, .mmCnt]
      (captureStop b) := by
  intro e he
  cases e with
  | statusFlag f => simp_all [Block.agree]
  | rxbuf a => exact agree_rxbuf rfl rfl a
  | _ => simp_all [Block.agree]

theorem startOrStop_keepsOutside (b : Block) :
    b.KeepsOutside [.capturing, .bulkSt, .bulkPos, .settleArmed, .bulkWdtArmed, .regWdtArmed,
      .statusFlag .bulkLive, .statusFlag .regLive, .statusBtn, .cmdBtnReq, .mmCnt]
      (startOrStop b) := by
  unfold startOrStop
  split
  · exact keepsOutside_mono (captureStart_keepsOutside b) (by decide)
  · split
    · exact captureStop_keepsOutside b
    · exact keepsOutside_refl _ b

/-! ## What the ends of an operation leave alone -/

/-- If the operation answers a next state, its block agrees with the old one outside the list. -/
def Framed (ws : List Element) (s : State) (o : Host.Outcome State Fault Refusal) : Prop :=
  ∀ t, o = .next t → s.block.KeepsOutside ws t.block

/-- An accepted event writes what its update writes, and `UNREAD_STATUS` only where that is listed or
`STATUS` keeps its value (10_state.md R35). -/
theorem framed_accept {ws : List Element} {s : State} {b : Block} (h : s.block.KeepsOutside ws b)
    (hu : .unreadStatus ∈ ws ∨ b.status = s.block.status) : Framed ws s (s.accept b) := by
  rintro t ⟨⟩
  rcases hu with hu | hs
  · exact keepsOutside_trans h
      (keepsOutside_mono (noteStatusChange_keepsOutside s.block b) (by simpa using hu))
  · change s.block.KeepsOutside ws (noteStatusChange s.block b)
    rwa [noteStatusChange_same hs]

theorem framed_respond {ws : List Element} {s : State} {b : Block} (v : Word)
    (h : s.block.KeepsOutside ws b) : Framed ws s (s.respond b v) := by
  rintro t ⟨⟩
  exact h

theorem framed_drop (ws : List Element) (s : State) : Framed ws s s.drop := by
  rintro t ⟨⟩
  exact keepsOutside_refl ws s.block

theorem framed_illegal (ws : List Element) (s : State) (p : Port) (e : IllegalCode) :
    Framed ws s (s.illegal p e) := by
  rintro t ⟨⟩
  exact keepsOutside_refl ws s.block

theorem framed_notEnabled (ws : List Element) (s : State) (o : Op) :
    Framed ws s (notEnabled o) := by
  rintro t ⟨⟩

theorem framed_ite {ws : List Element} {s : State} {p : Prop} [Decidable p]
    {x y : Host.Outcome State Fault Refusal} (hx : Framed ws s x) (hy : Framed ws s y) :
    Framed ws s (if p then x else y) := by
  split
  · exact hx
  · exact hy

/-! ## `EV_BULK_BYTE` -/

/-- What an `EV_BULK_BYTE` that has a next state did: it was dropped, it stored an inner byte, or it
stored the last byte and completed the frame (41_bulk_capture.md R143). -/
theorem exec_evBulkByte_next {v : Byte} {s t : State} (h : exec (.evBulkByte v) s = .next t) :
    (s.block.bulkSt ≠ .xfer ∧ t.block = s.block) ∨
    (s.block.bulkSt = .xfer ∧ s.block.bulkPos.toNat + 1 < s.cfg.frameLen ∧
      t.block = noteStatusChange s.block
        { storeBulkByte v s.block with bulkPos := s.block.bulkPos + 1 }) ∨
    (s.block.bulkSt = .xfer ∧ s.block.bulkPos.toNat + 1 = s.cfg.frameLen ∧
      t.block = noteStatusChange s.block (completeFrame s.cfg (storeBulkByte v s.block))) := by
  simp only [exec, execEvBulkByte] at h
  split at h
  · rename_i hx
    cases h
    exact .inl ⟨hx, rfl⟩
  · rename_i hx
    have hxfer : s.block.bulkSt = .xfer := not_not.1 hx
    split at h
    · cases h
    · split at h
      · rename_i hlt
        cases h
        exact .inr (.inl ⟨hxfer, hlt, rfl⟩)
      · cases h
        exact .inr (.inr ⟨hxfer, by omega, rfl⟩)

theorem exec_evBulkByte_framed (v : Byte) (s : State) :
    Framed (opWrites .evBulkByte) s (exec (.evBulkByte v) s) := by
  have hstore := keepsOutside_mono (ws := opWrites .evBulkByte)
    (storeBulkByte_keepsOutside v s.block) (by decide)
  have hnote (b : Block) := keepsOutside_mono (ws := opWrites .evBulkByte)
    (noteStatusChange_keepsOutside s.block b) (by decide)
  intro t h
  rcases exec_evBulkByte_next h with ⟨-, e⟩ | ⟨-, -, e⟩ | ⟨-, -, e⟩ <;> rw [e]
  · exact keepsOutside_refl _ s.block
  · exact keepsOutside_trans hstore (keepsOutside_trans
      (keepsOutside_mono (setBulkPos_keepsOutside _ _) (by decide)) (hnote _))
  · exact keepsOutside_trans hstore (keepsOutside_trans
      (keepsOutside_mono (completeFrame_keepsOutside _ _) (by decide)) (hnote _))

/-- `EV_BULK_BYTE` stores one byte in `XFER` and none elsewhere; neither the step of `BULK_POS` nor a
completion touches a half. -/
theorem exec_evBulkByte_rx {v : Byte} {s t : State} (h : exec (.evBulkByte v) s = .next t)
    (a : Half) :
    t.block.rx a =
      if s.block.bulkSt = .xfer then (storeBulkByte v s.block).rx a else s.block.rx a := by
  rcases exec_evBulkByte_next h with ⟨hx, e⟩ | ⟨hx, -, e⟩ | ⟨hx, -, e⟩
  · rw [e, if_neg hx]
  · rw [e, if_pos hx, rx_noteStatusChange]
    exact rx_congr rfl rfl a
  · rw [e, if_pos hx, rx_noteStatusChange, rx_completeFrame]

/-- The half that is not `BULK_ACT` is never written (20_memory.md R61). -/
theorem exec_evBulkByte_rx_other {v : Byte} {s t : State} (h : exec (.evBulkByte v) s = .next t) :
    t.block.rx s.block.bulkAct.other = s.block.rx s.block.bulkAct.other := by
  simp [exec_evBulkByte_rx h]

/-- In the half `BULK_ACT` the byte goes to `BULK_POS` (20_memory.md R61). -/
theorem read_exec_evBulkByte_rx_active {v : Byte} {s t : State}
    (h : exec (.evBulkByte v) s = .next t) {j : Nat}
    (hj : j ≠ s.block.bulkPos.toNat ∨ s.block.bulkSt ≠ .xfer) :
    Memory.read (t.block.rx s.block.bulkAct) j = Memory.read (s.block.rx s.block.bulkAct) j := by
  rw [exec_evBulkByte_rx h]
  split
  · rename_i hx
    have hpos : j ≠ s.block.bulkPos.toNat := hj.resolve_right (not_not.2 hx)
    rw [rx_storeBulkByte, if_pos rfl, read_write_ne _ hpos]
  · rfl

/-- A completion copies inside the frame only, and only where nothing is pending (20_memory.md R62). -/
theorem read_completeFrame_cap {c : Config} {b : Block} {j : Nat}
    (h : c.frameLen ≤ j ∨ b.capturePending = true) :
    Memory.read (completeFrame c b).cap j = Memory.read b.cap j := by
  simp only [completeFrame]
  split
  · rename_i hcopies
    simp only [Bool.and_eq_true, Bool.not_eq_true'] at hcopies
    have hj : c.frameLen ≤ j := h.resolve_right (by simp [hcopies.2])
    exact read_writeAll_of_not_mem _ _ (by simpa using hj)
  · rfl

/-- `EV_BULK_BYTE` writes `CAPBUF` only where a transfer completes with nothing pending. -/
theorem read_exec_evBulkByte_cap {v : Byte} {s t : State} (h : exec (.evBulkByte v) s = .next t)
    {j : Nat} (hj : s.cfg.frameLen ≤ j ∨ s.block.bulkPos.toNat + 1 < s.cfg.frameLen ∨
      s.block.capturePending = true ∨ s.block.bulkSt ≠ .xfer) :
    Memory.read t.block.cap j = Memory.read s.block.cap j := by
  rcases exec_evBulkByte_next h with ⟨-, e⟩ | ⟨-, -, e⟩ | ⟨hx, hlast, e⟩
  · rw [e]
  · simp [e]
  · have hkeep : s.cfg.frameLen ≤ j ∨ (storeBulkByte v s.block).capturePending = true := by
      rw [storeBulkByte_capturePending]
      rcases hj with hout | hinner | hpend | hidle
      · exact .inl hout
      · omega
      · exact .inr hpend
      · exact absurd hx hidle
    rw [e, noteStatusChange_cap, read_completeFrame_cap hkeep, storeBulkByte_cap]

/-! ## `PARSE` -/

/-- `PARSE` writes the indexes of the page space (20_memory.md R63). -/
theorem read_exec_parse_page {s t : State} (h : exec .parse s = .next t) {k : Nat}
    (hk : k ∉ pageKeys s.cfg) : Memory.read t.block.page k = Memory.read s.block.page k := by
  simp only [exec, execParse] at h
  split at h
  · cases h
    exact read_writeAll_of_not_mem _ _ hk
  · cases h

/-! ## Every operation -/

theorem exec_evRegDone_framed (w : Word) (s : State) :
    Framed (opWrites .evRegDone) s (exec (.evRegDone w) s) :=
  framed_ite
    (framed_accept (keepsOutside_mono (regDone_keepsOutside s.cfg w s.block) (by decide))
      (.inl (by decide)))
    (framed_drop _ s)

theorem exec_evPoll_framed (lv : BitVec 4) (s : State) :
    Framed (opWrites .evPoll) s (exec (.evPoll lv) s) :=
  framed_accept
    (keepsOutside_trans (keepsOutside_mono (sampleLevels_keepsOutside lv s.block) (by decide))
      (keepsOutside_mono (startOrStop_keepsOutside _) (by decide)))
    (.inl (by decide))

/-- An operation writes the elements its rule names (00_scope.md R7). The updates that the meanings write
out in place are compared element by element. -/
theorem exec_framed (i : Instr) (s : State) : Framed (opWrites i.op) s (exec i s) := by
  cases i
  case evBulkByte v => exact exec_evBulkByte_framed v s
  case evRegDone w => exact exec_evRegDone_framed w s
  case evPoll lv => exact exec_evPoll_framed lv s
  case evFrameEdge =>
    refine framed_ite (framed_accept (fun e he => ?_) (.inr rfl)) (framed_drop _ s)
    cases e <;>
      simp_all [Instr.op, opWrites, Block.agree, Block.flag, Block.btn, Block.btnReq, Block.rx]
  case evSettleExpire | parse =>
    refine framed_ite (framed_accept (fun e he => ?_) (.inr rfl)) (framed_notEnabled _ s _)
    cases e <;>
      simp_all [Instr.op, opWrites, Block.agree, Block.flag, Block.btn, Block.btnReq, Block.rx]
  case evBulkWdtExpire | evRegWdtExpire | evStbyExpire =>
    refine framed_ite (framed_accept (fun e he => ?_) (.inl (by decide))) (framed_notEnabled _ s _)
    cases e <;>
      simp_all [Instr.op, opWrites, Block.agree, Block.flag, Block.btn, Block.btnReq, Block.rx]
  case hostReadPage =>
    exact framed_ite (framed_respond _ (keepsOutside_refl _ _)) (framed_illegal _ s _ _)
  case crcRead | crcCheck | hostReadCmd | hostReadFlags | hostReadDiag =>
    exact framed_respond _ (keepsOutside_refl _ _)
  case crcInit | crcByte | hostReadStatus | hostWriteCmd | hostSetLock | hostClearUnreadSnap =>
    refine framed_respond _ (fun e he => ?_)
    cases e <;>
      simp_all [Instr.op, opWrites, Block.agree, Block.flag, Block.btn, Block.btnReq, Block.rx]

/-- Settles O54: each operation's frame element by element, the index `EV_BULK_BYTE` stores at, and the
indexes a completion and `PARSE` write. -/
theorem everyOperationWritesOnlyItsElements : Obligations.EveryOperationWritesOnlyItsElements := by
  unfold Obligations.EveryOperationWritesOnlyItsElements
  refine ⟨fun i s t h => ⟨exec_framed i s t h, exec_around h⟩, fun v s t h => ⟨fun j => ?_, ?_, ?_⟩,
    fun s t h k hk => read_exec_parse_page h hk⟩
  · rw [exec_evBulkByte_rx_other h]
  · exact fun j hj => read_exec_evBulkByte_rx_active h hj
  · exact fun j hj => read_exec_evBulkByte_cap h hj

end Sys2Proof.Machine
end

section
/-! PROOFS. The state over whole steps: the invariant of 10_state.md R46 at reset and through every step,
and what can change `CAPTURING`, `UNREAD_STATUS` and the two fault flags. -/

namespace Sys2Proof.Machine

/-! ## Words and operations -/

/-- A legal word came on the port of its operation's class (30_encoding.md R96 item 2). -/
theorem port_of_decode_ok {c : Config} {p : Port} {w : OpWord} {i : Instr}
    (h : decode c p w = .ok i) : i.op.port = p := by
  unfold decode at h
  split at h
  · cases h
  · split_ifs at h with hp
    cases h
    rw [op_instrOf]
    exact not_not.1 hp

theorem port_eq_event_iff {o : Op} : o.port = .event ↔ o.agent ≠ .host := by
  cases o <;> decide

theorem op_eq_evPoll {i : Instr} : i.op = .evPoll ↔ ∃ lv, i = .evPoll lv := by
  cases i <;> simp [Instr.op]

theorem op_eq_evRegDone {i : Instr} : i.op = .evRegDone ↔ ∃ w, i = .evRegDone w := by
  cases i <;> simp [Instr.op]

theorem op_eq_hostReadStatus {i : Instr} : i.op = .hostReadStatus ↔ i = .hostReadStatus := by
  cases i <;> simp [Instr.op]

/-! ## Which operations write an element -/

/-- An operation that changed an element is one whose rule writes it. -/
theorem mem_opWrites_of_changed {i : Instr} {s t : State} {e : Element} (h : exec i s = .next t)
    (hne : ¬ s.block.agree t.block e) : e ∈ opWrites i.op :=
  not_not.1 fun he => hne (exec_framed i s t h e he)

theorem capturing_mem_opWrites {o : Op} (h : .capturing ∈ opWrites o) : o = .evPoll := by
  cases o <;> simp_all [opWrites]

theorem faultFlag_mem_opWrites {o : Op} {f : StatusFlag} (hf : f = .mp ∨ f = .pf)
    (h : .statusFlag f ∈ opWrites o) : o = .hostReadStatus ∨ o = .evRegDone := by
  rcases hf with rfl | rfl <;> cases o <;> simp_all [opWrites]

theorem unreadStatus_mem_opWrites_host {o : Op} (ho : o.port = .host)
    (h : .unreadStatus ∈ opWrites o) : o = .hostReadStatus := by
  cases o <;> simp_all [opWrites, Op.port]

/-- Settles O39: `CAPTURING` is an element of one row's frame only. -/
theorem onlyPollsStartAndStopCapture : Obligations.OnlyPollsStartAndStopCapture := by
  unfold Obligations.OnlyPollsStartAndStopCapture
  intro i s t h hne
  have hw : .capturing ∈ opWrites i.op := mem_opWrites_of_changed h (Ne.symm hne)
  exact op_eq_evPoll.1 (capturing_mem_opWrites hw)

/-! ## What a step did -/

/-- What a step that has a next state did: it left the block as it was, it took an asserting reset edge,
or it took a legal word whose operation answered that state. -/
theorem step_next {s t : State} (h : step s = .next t) :
    (t.cfg = s.cfg ∧ t.block = s.block ∧ (t.inReset = true → s.inReset = true)) ∨
    (t.cfg = s.cfg ∧ t.block = Block.reset ∧ ∃ rest, s.inputs = .reset true :: rest) ∨
    (s.inReset = false ∧ ∃ p w rest i, s.inputs = .op p w :: rest ∧ decode s.cfg p w = .ok i ∧
      exec i { s with inputs := rest } = .next t) := by
  rcases step_cases s with ⟨-, e⟩ | ⟨a, rest, hq, e⟩ | ⟨p, w, rest, -, -, e⟩ |
    ⟨p, w, rest, code, -, -, -, e⟩ | ⟨p, w, rest, i, hq, hr, hd, e⟩ <;> rw [e] at h
  case inl => cases h; exact .inl ⟨rfl, rfl, id⟩
  case inr.inl =>
    cases a <;> cases h
    · exact .inl ⟨rfl, rfl, fun hr => by cases hr⟩
    · exact .inr (.inl ⟨rfl, rfl, rest, hq⟩)
  case inr.inr.inl => cases h; exact .inl ⟨rfl, rfl, id⟩
  case inr.inr.inr.inl => cases h; exact .inl ⟨rfl, rfl, id⟩
  case inr.inr.inr.inr =>
    unfold performOp settleOutcome at h
    split at h
    · cases h; exact .inl ⟨rfl, rfl, id⟩
    · cases h
    · cases h
    · rename_i he
      cases h
      exact .inr (.inr ⟨hr, p, w, rest, i, hq, hd, he⟩)

/-! ## A property of every next state -/

/-- If the outcome is a next state, that state has the property. -/
def AllNext (P : State → Prop) (o : Host.Outcome State Fault Refusal) : Prop :=
  ∀ t, o = .next t → P t

section
variable {P : State → Prop} {s : State}

theorem allNext_next (h : P s) : AllNext P (.next s) := by
  rintro t ⟨⟩
  exact h

theorem allNext_notEnabled (P : State → Prop) (o : Op) : AllNext P (notEnabled o) := by
  rintro t ⟨⟩

theorem allNext_ite {p : Prop} [Decidable p] {x y : Host.Outcome State Fault Refusal}
    (hx : p → AllNext P x) (hy : ¬ p → AllNext P y) : AllNext P (if p then x else y) := by
  split
  · exact hx ‹_›
  · exact hy ‹_›

end

/-! ## `UNREAD_STATUS` (10_state.md R35) -/

@[simp] theorem startOrStop_unreadStatus (b : Block) :
    (startOrStop b).unreadStatus = b.unreadStatus := by
  unfold startOrStop
  split
  · rfl
  · split <;> rfl

/-- `UNREAD_STATUS` after an operation says whether it was set before or `STATUS` changed. -/
def NotesStatus (s t : State) : Prop :=
  t.block.unreadStatus = (s.block.unreadStatus || decide (t.block.status ≠ s.block.status))

theorem accept_notesStatus {s : State} {b : Block} (h : b.unreadStatus = s.block.unreadStatus) :
    AllNext (NotesStatus s) (s.accept b) :=
  allNext_next (congrArg (· || decide (b.status ≠ s.block.status)) h)

theorem drop_notesStatus (s : State) : AllNext (NotesStatus s) s.drop :=
  allNext_next (by simp [NotesStatus])

theorem exec_evBulkByte_notesStatus (v : Byte) (s : State) :
    AllNext (NotesStatus s) (exec (.evBulkByte v) s) := by
  intro t h
  rcases exec_evBulkByte_next h with ⟨-, e⟩ | ⟨-, -, e⟩ | ⟨-, -, e⟩ <;> simp [NotesStatus, e]

/-- No event writes `UNREAD_STATUS` by itself: its end notes the change of `STATUS`. -/
theorem exec_event_notesStatus {i : Instr} (hi : i.op.port = .event) (s : State) :
    AllNext (NotesStatus s) (exec i s) := by
  cases i
  case evFrameEdge =>
    exact allNext_ite (fun _ => accept_notesStatus rfl) (fun _ => drop_notesStatus s)
  case evBulkByte v => exact exec_evBulkByte_notesStatus v s
  case evRegDone w =>
    exact allNext_ite (fun _ => accept_notesStatus rfl) (fun _ => drop_notesStatus s)
  case evPoll lv => exact accept_notesStatus (by simp)
  case evSettleExpire | evBulkWdtExpire | evRegWdtExpire | evStbyExpire | parse =>
    exact allNext_ite (fun _ => accept_notesStatus rfl) (fun _ => allNext_notEnabled _ _)
  all_goals cases hi

/-- An event that has a next state was accepted, or left the block as it was. -/
theorem exec_event_report {i : Instr} {s t : State} (hi : i.op.port = .event)
    (h : exec i s = .next t) : t.report = some ⟨.accepted, none⟩ ∨ t.block = s.block := by
  rcases exec_ends i s with ⟨-, b, e⟩ | ⟨hhost, -⟩ | ⟨-, e⟩ | e | ⟨p, x, rfl, -⟩ | ⟨v, -, -, e⟩
  · rw [e] at h; cases h; exact .inl rfl
  · rw [hi] at hhost; cases hhost
  · rw [e] at h; cases h; exact .inr rfl
  · rw [e] at h; cases h
  · cases hi
  · rw [e] at h; cases h

/-- A host operation never sets `UNREAD_STATUS`: the one that writes it clears it. -/
theorem exec_host_unreadStatus {i : Instr} {s t : State} (hi : i.op.port = .host)
    (h : exec i s = .next t) (ht : t.block.unreadStatus = true) : s.block.unreadStatus = true := by
  by_contra hs
  have hw : .unreadStatus ∈ opWrites i.op :=
    mem_opWrites_of_changed h (fun e : s.block.unreadStatus = t.block.unreadStatus => hs (e.trans ht))
  cases op_eq_hostReadStatus.1 (unreadStatus_mem_opWrites_host hi hw)
  cases h
  cases ht

/-- Settles O55: an event's end notes the change of `STATUS`, no host operation sets the flag, and a step
that runs no operation leaves it or resets it. -/
theorem unreadStatusFollowsStatusChanges : Obligations.UnreadStatusFollowsStatusChanges := by
  unfold Obligations.UnreadStatusFollowsStatusChanges
  refine ⟨fun i s t hi h _ => exec_event_notesStatus (port_eq_event_iff.2 hi) s t h,
    fun s t h hs ht => ?_⟩
  rcases step_next h with ⟨-, hb, -⟩ | ⟨-, hb, -⟩ | ⟨-, p, w, rest, i, hq, hd, he⟩
  · rw [hb, hs] at ht; cases ht
  · rw [hb] at ht; cases ht
  · cases p with
    | host =>
      have hset : s.block.unreadStatus = true :=
        exec_host_unreadStatus (s := { s with inputs := rest }) (port_of_decode_ok hd) he ht
      rw [hs] at hset; cases hset
    | event =>
      have hi := port_of_decode_ok hd
      have hnote : t.block.unreadStatus =
          (s.block.unreadStatus || decide (t.block.status ≠ s.block.status)) :=
        exec_event_notesStatus hi { s with inputs := rest } t he
      have hne : t.block.status ≠ s.block.status := by simpa [hs, ht] using hnote
      exact ⟨hne, (exec_event_report hi he).resolve_right fun hb => hne (by rw [hb]),
        w, rest, hq⟩

/-! ## The fault flags (10_state.md R25, R26) -/

/-- An operation that changes `MP` or `PF` is a status read or an `EV_REG_DONE`. -/
theorem exec_changes_faultFlag {i : Instr} {s t : State} {f : StatusFlag} (hf : f = .mp ∨ f = .pf)
    (h : exec i s = .next t) (hne : s.block.flag f ≠ t.block.flag f) :
    i = .hostReadStatus ∨ ∃ w, i = .evRegDone w :=
  (faultFlag_mem_opWrites hf (mem_opWrites_of_changed h hne)).imp
    op_eq_hostReadStatus.1 op_eq_evRegDone.1

/-- An `EV_REG_DONE` clears neither fault flag. -/
theorem exec_evRegDone_keeps_faultFlag {w : Word} {s t : State} {f : StatusFlag}
    (hf : f = .mp ∨ f = .pf) (h : exec (.evRegDone w) s = .next t) (hs : s.block.flag f = true) :
    t.block.flag f = true := by
  simp only [exec, execEvRegDone] at h
  split at h <;> cases h
  · rcases hf with rfl | rfl <;> simp [regDone_flag, hs]
  · exact hs

/-- A status read leaves both fault flags 0. -/
theorem exec_hostReadStatus_faultFlag {s t : State} {f : StatusFlag} (hf : f = .mp ∨ f = .pf)
    (h : exec .hostReadStatus s = .next t) : t.block.flag f = false := by
  cases h
  rcases hf with rfl | rfl <;> simp [Block.flag]

theorem exec_clears_faultFlag {i : Instr} {s t : State} {f : StatusFlag} (hf : f = .mp ∨ f = .pf)
    (h : exec i s = .next t) (hs : s.block.flag f = true) (ht : t.block.flag f = false) :
    i = .hostReadStatus := by
  rcases exec_changes_faultFlag hf h (by simp [hs, ht]) with hi | ⟨w, rfl⟩
  · exact hi
  · rw [exec_evRegDone_keeps_faultFlag hf h hs] at ht; cases ht

theorem exec_sets_faultFlag {i : Instr} {s t : State} {f : StatusFlag} (hf : f = .mp ∨ f = .pf)
    (h : exec i s = .next t) (hs : s.block.flag f = false) (ht : t.block.flag f = true) :
    ∃ w, i = .evRegDone w := by
  rcases exec_changes_faultFlag hf h (by simp [hs, ht]) with rfl | hi
  · rw [exec_hostReadStatus_faultFlag hf h] at ht; cases ht
  · exact hi

/-- Settles O58: of the two operations whose frames hold a fault flag, a read only clears it and a
completion only sets it; a step that runs no operation leaves the flag or is a reset. -/
theorem stickyFlagsClearOnlyOnStatusRead : Obligations.StickyFlagsClearOnlyOnStatusRead := by
  unfold Obligations.StickyFlagsClearOnlyOnStatusRead
  refine ⟨fun i s t f hf h => ⟨exec_clears_faultFlag hf h, exec_sets_faultFlag hf h⟩,
    fun s t h f hf hs ht => ?_⟩
  rcases step_next h with ⟨-, hb, -⟩ | ⟨-, -, hreset⟩ | ⟨-, p, w, rest, i, hq, hd, he⟩
  · rw [hb, hs] at ht; cases ht
  · exact .inr hreset
  · cases exec_clears_faultFlag hf he hs ht
    cases port_of_decode_ok hd
    exact .inl ⟨w, rest, hq, hd⟩

/-! ## Reset (10_state.md R47) -/

/-- Settles O1: the values of `Block.reset`, and memories that list no element. -/
theorem resetHoldsTheListedValues : Obligations.ResetHoldsTheListedValues := by
  unfold Obligations.ResetHoldsTheListedValues
  intro c
  exact ⟨rfl, rfl, rfl, rfl, rfl, rfl, rfl, rfl, rfl, rfl, rfl, rfl, rfl, rfl, rfl, rfl, rfl, rfl,
    read_nil, read_nil, read_nil, fun p i => read_nil (pageKey p i)⟩

/-- The reset values satisfy the invariant; only the position needs the range of `FRAME_LEN`. -/
theorem inv_reset {c : Config} (hc : c.wf) : Block.reset.Inv c := by
  obtain ⟨⟨hframe, -⟩, -, -⟩ := hc
  constructor
  case pos_lt => exact hframe
  case mm_cnt_le => exact Nat.zero_le _
  case rx0_within | rx1_within | cap_within | page_within => rfl
  all_goals decide

theorem inv_resetWith {c : Config} (hc : c.wf) : (State.resetWith c).Inv :=
  ⟨hc, inv_reset hc, fun _ => rfl⟩

/-- Settles O11: the reset block satisfies the invariant for all parameters in range, those R5 prints
among them. -/
theorem resetSatisfiesTheInvariants : Obligations.ResetSatisfiesTheInvariants := by
  unfold Obligations.ResetSatisfiesTheInvariants
  exact ⟨inv_resetWith (by decide), fun c hc => inv_resetWith hc⟩

/-! ## The invariant through each operation (10_state.md R46)

A write of elements the invariant does not name, or of some it names, keeps the clauses about the others:
each proof gives the clauses the write touches. -/

section
variable {c : Config} {b : Block}

/-- A capture state other than `IDLE` means capture is on. -/
theorem capturing_of_bulkSt (h : b.Inv c) {st : BulkState} (hst : b.bulkSt = st)
    (hne : st ≠ .idle) : b.capturing = true :=
  h.busy_iff_capturing.1 (hst ▸ hne)

theorem inv_frameEdge (h : b.Inv c) (hs : b.bulkSt = .sync) :
    Block.Inv c { b with bulkSt := .settle, settleArmed := true } :=
  have hcap := capturing_of_bulkSt h hs (by decide)
  { h with
    settle_armed_iff := by simp
    busy_iff_capturing := by simp [hcap]
    pos_zero_outside_xfer := fun _ => h.pos_zero_outside_xfer (by simp [hs])
    bulk_wdt_armed_iff := by simp [h.bulk_wdt_armed_iff, hs] }

theorem inv_settleExpire (hc : c.wf) (h : b.Inv c) (hs : b.settleArmed = true) :
    Block.Inv c { b with
      settleArmed := false, bulkSt := .xfer, bulkPos := 0, bulkWdtArmed := true } :=
  have hcap := capturing_of_bulkSt h (h.settle_armed_iff.1 hs) (by decide)
  { h with
    settle_armed_iff := by simp
    busy_iff_capturing := by simp [hcap]
    pos_zero_outside_xfer := fun _ => rfl
    bulk_wdt_armed_iff := by simp
    pos_lt := hc.1.1 }

theorem inv_nextPos (h : b.Inv c) (hx : b.bulkSt = .xfer)
    (hlt : b.bulkPos.toNat + 1 < c.frameLen) :
    Block.Inv c { b with bulkPos := b.bulkPos + 1 } :=
  { h with
    pos_zero_outside_xfer := fun hne => absurd hx hne
    pos_lt := lt_of_le_of_lt (by simpa using Nat.mod_le _ _) hlt }

/-- A new `STATUS` keeps the invariant if it keeps the level flags, shows standby only where the standby
timer is armed, and shows no capture while capture is off. -/
theorem inv_setStatus (h : b.Inv c) {w : Word}
    (hlevel : ∀ f ∈ [StatusFlag.pwr, .red, .white], statusFlag f w = b.flag f)
    (hstby : statusFlag .stby w = true → b.stbyArmed = true)
    (hstopped : b.capturing = false →
      statusFlag .bulkLive w = false ∧ statusFlag .regLive w = false ∧ buttonField w = 0x00) :
    Block.Inv c { b with status := w } :=
  have hpwr := hlevel .pwr (by simp)
  have hred := hlevel .red (by simp)
  have hwhite := hlevel .white (by simp)
  { h with
    pwr_level := hpwr.trans h.pwr_level
    red_level := hred.trans h.red_level
    white_level := hwhite.trans h.white_level
    capturing_iff_lit := h.capturing_iff_lit.trans (congrArg₂ or hred hwhite).symm
    stby_armed := hstby
    stopped_clear := hstopped }

/-- While capture is on, `STATUS` may take any value that keeps the detector's flags. -/
theorem inv_setStatus_capturing (h : b.Inv c) (hcap : b.capturing = true) {w : Word}
    (hkeep : ∀ f ∈ [StatusFlag.pwr, .red, .white, .stby], statusFlag f w = b.flag f) :
    Block.Inv c { b with status := w } := by
  have hsub : [StatusFlag.pwr, .red, .white] ⊆ [.pwr, .red, .white, .stby] := by decide
  have hstby : statusFlag .stby w = b.flag .stby := hkeep .stby (by simp)
  exact inv_setStatus h (fun f hf => hkeep f (hsub hf)) (fun hs => h.stby_armed (hstby ▸ hs))
    (by simp [hcap])

theorem inv_setMmCnt (h : b.Inv c) {n : BitVec 3} (hn : n.toNat ≤ c.mismatchLimit) :
    Block.Inv c { b with mmCnt := n } :=
  { h with mm_cnt_le := hn }

theorem inv_setRegWdt (h : b.Inv c) (hcap : b.capturing = true) (v : Bool) :
    Block.Inv c { b with regWdtArmed := v } :=
  { h with reg_wdt_armed_capturing := fun _ => hcap }

theorem inv_bulkAbort (hc : c.wf) (h : b.Inv c) (hx : b.bulkSt = .xfer) :
    Block.Inv c { b with bulkWdtArmed := false, bulkSt := .sync, bulkPos := 0 } :=
  have hcap := capturing_of_bulkSt h hx (by decide)
  { h with
    settle_armed_iff := by simp [h.settle_armed_iff, hx]
    busy_iff_capturing := by simp [hcap]
    pos_zero_outside_xfer := fun _ => rfl
    bulk_wdt_armed_iff := by simp
    pos_lt := hc.1.1 }

theorem inv_bulkWdtExpire (hc : c.wf) (h : b.Inv c) (hw : b.bulkWdtArmed = true) :
    Block.Inv c { b with
      bulkWdtArmed := false, status := setStatusFlag .bulkLive false b.status
      bulkSt := .sync, bulkPos := 0 } :=
  have hx := h.bulk_wdt_armed_iff.1 hw
  have hcap := capturing_of_bulkSt h hx (by decide)
  inv_setStatus_capturing (inv_bulkAbort hc h hx) hcap (by simp [Block.flag])

/-- The mismatch counter saturates at the limit (42_register_capture.md R173). -/
theorem nextMismatch_le (c : Config) (btn req : Byte) (n : BitVec 3) :
    (nextMismatch c btn req n).toNat ≤ c.mismatchLimit := by
  unfold nextMismatch
  split
  · exact Nat.zero_le _
  · rw [BitVec.toNat_ofNat]
    exact (Nat.mod_le _ _).trans (min_le_right _ _)

theorem inv_regDone (h : b.Inv c) (hcap : b.capturing = true) (w : Word) :
    (regDone c w b).Inv c := by
  have hmm := inv_setMmCnt h (nextMismatch_le c (buttonByte w) b.btnReq b.mmCnt)
  refine inv_setStatus_capturing (w := (regDone c w b).status) (inv_setRegWdt hmm hcap true) hcap
    (fun f hf => ?_)
  simp only [List.mem_cons, List.not_mem_nil, or_false] at hf
  rcases hf with rfl | rfl | rfl | rfl <;> exact regDone_flag c w b _

/-- The fail-safe clear keeps the invariant whatever it leaves in `CMD`, which no clause names
(log entry 11). -/
theorem inv_regWdtExpire (h : b.Inv c) (hw : b.regWdtArmed = true) (cmd : Word) :
    Block.Inv c { b with
      regWdtArmed := false
      status := setButtonField 0x00 (setStatusFlag .regLive false b.status)
      cmd := cmd
      mmCnt := 0 } :=
  have hcap := h.reg_wdt_armed_capturing hw
  have hstatus : Block.Inv c
      { b with status := setButtonField 0x00 (setStatusFlag .regLive false b.status) } :=
    inv_setStatus_capturing h hcap (by simp [Block.flag])
  { inv_setMmCnt (inv_setRegWdt hstatus hcap false) (n := 0) (Nat.zero_le _) with }

theorem inv_stbyExpire (h : b.Inv c) :
    Block.Inv c { b with stbyArmed := false, status := setStatusFlag .stby false b.status } :=
  have hstatus : Block.Inv c { b with status := setStatusFlag .stby false b.status } :=
    inv_setStatus h (by simp [Block.flag]) (by simp)
      (fun hoff => by simpa [Block.flag, Block.btn] using h.stopped_clear hoff)
  { hstatus with stby_armed := by simp [Block.flag] }

theorem inv_readStatus (h : b.Inv c) (u : Bool) :
    Block.Inv c { b with
      status := setStatusFlag .pf false (setStatusFlag .mp false b.status), unreadStatus := u } :=
  have hstatus : Block.Inv c
      { b with status := setStatusFlag .pf false (setStatusFlag .mp false b.status) } :=
    inv_setStatus h (by simp [Block.flag]) (by simpa [Block.flag] using h.stby_armed)
      (fun hoff => by simpa [Block.flag, Block.btn] using h.stopped_clear hoff)
  { hstatus with }

/-- A parse writes page words inside the page space, in canonical form. -/
theorem inv_parse (hc : c.wf) (h : b.Inv c) :
    Block.Inv c { b with
      page := parsePages c b.cap b.page, capturePending := false, unreadSnapshot := true } :=
  { h with
    page_canonical := wf_writeAll h.page_canonical _ _
    page_within := within_writeAll h.page_within _ fun _ hk =>
      (mem_pageKeys_iff_ok hc.2.1.2).1 hk }

end

/-! ## The invariant through every step -/

/-- The block of a state has the invariant for a parameter set. -/
def HasInv (c : Config) (s : State) : Prop := s.block.Inv c

section
variable {c : Config} {s : State}

theorem accept_inv {b : Block} (h : b.Inv c) : AllNext (HasInv c) (s.accept b) :=
  allNext_next (inv_noteStatusChange h)

theorem respond_inv {b : Block} (h : b.Inv c) (v : Word) : AllNext (HasInv c) (s.respond b v) :=
  allNext_next h

theorem drop_inv (h : s.block.Inv c) : AllNext (HasInv c) s.drop := allNext_next h

theorem illegal_inv (h : s.block.Inv c) (p : Port) (e : IllegalCode) :
    AllNext (HasInv c) (s.illegal p e) := allNext_next h

end

theorem exec_evBulkByte_inv {s : State} (hc : s.cfg.wf) (h : s.block.Inv s.cfg) (v : Byte) :
    AllNext (HasInv s.cfg) (exec (.evBulkByte v) s) := by
  have hstore := inv_storeBulkByte h v
  intro t ht
  unfold HasInv
  rcases exec_evBulkByte_next ht with ⟨-, e⟩ | ⟨hx, hlt, e⟩ | ⟨hx, -, e⟩ <;> rw [e]
  · exact h
  · have hnext := inv_nextPos hstore (by simpa using hx) (by simpa using hlt)
    rw [storeBulkByte_bulkPos] at hnext
    exact inv_noteStatusChange hnext
  · exact inv_noteStatusChange (inv_completeFrame hc hstore (by simpa using hx))

/-- Every operation keeps the block's invariant. -/
theorem exec_inv {s : State} (hc : s.cfg.wf) (h : s.block.Inv s.cfg) (i : Instr) :
    AllNext (HasInv s.cfg) (exec i s) := by
  cases i
  case evFrameEdge =>
    exact allNext_ite (fun hs => accept_inv (inv_frameEdge h hs)) (fun _ => drop_inv h)
  case evSettleExpire =>
    exact allNext_ite (fun hs => accept_inv (inv_settleExpire hc h hs))
      (fun _ => allNext_notEnabled _ _)
  case evBulkByte v => exact exec_evBulkByte_inv hc h v
  case evBulkWdtExpire =>
    exact allNext_ite (fun hw => accept_inv (inv_bulkWdtExpire hc h hw))
      (fun _ => allNext_notEnabled _ _)
  case evRegDone w =>
    exact allNext_ite (fun hcap => accept_inv (inv_regDone h hcap w)) (fun _ => drop_inv h)
  case evRegWdtExpire =>
    exact allNext_ite (fun hw => accept_inv (inv_regWdtExpire h hw _))
      (fun _ => allNext_notEnabled _ _)
  case evPoll lv => exact accept_inv (inv_poll hc h lv)
  case evStbyExpire =>
    exact allNext_ite (fun _ => accept_inv (inv_stbyExpire h)) (fun _ => allNext_notEnabled _ _)
  case parse =>
    exact allNext_ite (fun _ => accept_inv (inv_parse hc h)) (fun _ => allNext_notEnabled _ _)
  case hostReadStatus => exact respond_inv (inv_readStatus h false) _
  case hostReadPage p x =>
    exact allNext_ite (fun _ => respond_inv h _) (fun _ => illegal_inv h _ _)
  case crcInit | crcByte | hostWriteCmd | hostSetLock | hostClearUnreadSnap =>
    refine respond_inv ?_ _
    exact { h with }
  case crcRead | crcCheck | hostReadCmd | hostReadFlags | hostReadDiag => exact respond_inv h _

/-- Settles O12: a step leaves the block, resets it, or runs one operation, and each keeps the
invariant; the parameters never change, and no operation runs while reset is asserted. -/
theorem stepKeepsTheInvariants : Obligations.StepKeepsTheInvariants := by
  unfold Obligations.StepKeepsTheInvariants
  rintro s t ⟨hc, hblock, hreset⟩ hstep
  rcases step_next hstep with ⟨hcfg, hb, hr⟩ | ⟨hcfg, hb, -⟩ | ⟨hr, p, w, rest, i, -, -, he⟩
  · exact ⟨hcfg ▸ hc, by rwa [hcfg, hb], fun ht => hb.trans (hreset (hr ht))⟩
  · exact ⟨hcfg ▸ hc, by rw [hcfg, hb]; exact inv_reset hc, fun _ => hb⟩
  · obtain ⟨hcfg, -, hlevel⟩ := exec_around he
    have hinv : t.block.Inv s.cfg :=
      exec_inv (s := { s with inputs := rest }) hc hblock i t he
    refine ⟨hcfg ▸ hc, by rwa [hcfg], fun ht => ?_⟩
    rw [hlevel, hr] at ht
    cases ht

end Sys2Proof.Machine
end

section
/-! PROOFS. The capture buffer, its flag and the pages: what runs of operations keep (20_memory.md R62 to
R74), and that a queue performs its operations one by one. -/

namespace Sys2Proof.Machine

/-! ## Runs of operations -/

/-- An operation performed at its port answers what it answers by itself, or had no transition and is
reported. -/
theorem performOp_next {i : Instr} {s t : State} (h : performOp i s = .next t) :
    exec i s = .next t ∨ t = { s with report := some ⟨.notEnabled, none⟩ } := by
  unfold performOp settleOutcome at h
  split at h
  · cases h; exact .inr rfl
  · cases h
  · cases h
  · rename_i he
    cases h
    exact .inl he

/-- Performing an operation leaves the parameters, the queue and the reset level alone. -/
theorem performOp_around {i : Instr} {s t : State} (h : performOp i s = .next t) :
    t.cfg = s.cfg ∧ t.inputs = s.inputs ∧ t.inReset = s.inReset := by
  rcases performOp_next h with he | rfl
  · exact exec_around he
  · exact ⟨rfl, rfl, rfl⟩

/-- What each operation of a list keeps, the run of the list keeps. -/
theorem performAll_allNext {P : State → Prop} {is : List Instr} {s : State}
    (hstep : ∀ i ∈ is, ∀ s, P s → AllNext P (performOp i s)) (hs : P s) :
    AllNext P (performAll is s) := by
  induction is generalizing s with
  | nil => exact allNext_next hs
  | cons i is ih =>
    have htail := fun j hj => hstep j (List.mem_cons_of_mem i hj)
    intro t ht
    rw [performAll] at ht
    split at ht
    · rename_i u hu
      exact ih htail (hstep i List.mem_cons_self s hs u hu) t ht
    · cases ht
    · cases ht

theorem performAll_inputs {is : List Instr} {s t : State} (h : performAll is s = .next t) :
    t.inputs = s.inputs :=
  performAll_allNext (P := fun u => u.inputs = s.inputs)
    (fun _ _ _ hu _ hv => (performOp_around hv).2.1.trans hu) rfl t h

/-! ## A queue of operations (20_memory.md R69, R71) -/

/-- The port of its agent reads a well-formed operation back from its word (30_encoding.md R90 to R96). -/
theorem decode_encode {c : Config} {i : Instr} (hi : i.wf c = true) :
    decode c i.op.agent.port (encode i) = .ok i := by
  rw [encode_eq_wordOf, decode_wordOf]
  simp [agent_port, operand_mustBeZero, instrOf_operand, hi]

/-- A step with an operation's word at the head of the queue performs the operation. -/
theorem step_arrival {s : State} {i : Instr} {rest : List Input}
    (hq : s.inputs = arrival i :: rest) (hr : s.inReset = false) (hi : i.wf s.cfg = true) :
    step s = performOp i { s with inputs := rest } := by
  rw [step_cons hq]
  simp [arrival, takeInput, takeWord, hr, decode_encode hi]

theorem run_succ_of_next {M : Host.Core} {s t : M.State} (n : Nat) (h : M.step s = .next t) :
    M.run (n + 1) s = M.run n t := by
  rw [Host.Core.run, h]

theorem run_succ_of_fault {M : Host.Core} {s : M.State} {f : M.Fault} (n : Nat)
    (h : M.step s = .fault f) : M.run (n + 1) s = .fault f := by
  rw [Host.Core.run, h]

theorem run_succ_of_refused {M : Host.Core} {s : M.State} {r : M.Refusal} (n : Nat)
    (h : M.step s = .refused r) : M.run (n + 1) s = .refused r := by
  rw [Host.Core.run, h]

/-- As many steps as there are operations at the front of the queue perform them in order. -/
theorem run_arrivals {is : List Instr} {s : State} {rest : List Input}
    (hq : s.inputs = is.map arrival ++ rest) (hr : s.inReset = false)
    (hwf : ∀ i ∈ is, i.wf s.cfg = true) :
    Host.Core.run Sys2Proof.core is.length s = performAll is { s with inputs := rest } := by
  induction is generalizing s with
  | nil =>
    have hrest : rest = s.inputs := hq.symm
    subst hrest
    rfl
  | cons i is ih =>
    have hstep := step_arrival hq hr (hwf i List.mem_cons_self)
    have hfront := performOp_with_inputs i { s with inputs := is.map arrival ++ rest } rest
    rw [performAll, hfront, List.length_cons]
    cases hp : performOp i { s with inputs := is.map arrival ++ rest } with
    | next t =>
      obtain ⟨hcfg, hinputs, hreset⟩ := performOp_around hp
      have htail : ∀ j ∈ is, j.wf t.cfg = true :=
        fun j hj => hcfg ▸ hwf j (List.mem_cons_of_mem i hj)
      exact (run_succ_of_next (M := Sys2Proof.core) is.length (hstep.trans hp)).trans
        (ih hinputs (hreset.trans hr) htail)
    | fault f => exact run_succ_of_fault (M := Sys2Proof.core) is.length (hstep.trans hp)
    | refused r => exact run_succ_of_refused (M := Sys2Proof.core) is.length (hstep.trans hp)

/-- Settles O10: each word at the head decodes to its operation, which runs alike whatever is queued
behind it and leaves that there. -/
theorem queueRunsOneOperationAtATime : Obligations.QueueRunsOneOperationAtATime := by
  unfold Obligations.QueueRunsOneOperationAtATime
  exact fun is s rest hq hr hwf => ⟨run_arrivals hq hr hwf, fun t ht => performAll_inputs ht⟩

/-! ## The hand-off of a frame (20_memory.md R62, R63) -/

/-- The last lines of a poll start capture, stop it, or do nothing (43_detector.md R191). -/
theorem startOrStop_cases (b : Block) :
    startOrStop b = captureStart b ∨ startOrStop b = captureStop b ∨ startOrStop b = b := by
  unfold startOrStop
  split
  · exact .inl rfl
  · split
    · exact .inr (.inl rfl)
    · exact .inr (.inr rfl)

@[simp] theorem startOrStop_capturePending (b : Block) :
    (startOrStop b).capturePending = b.capturePending := by
  rcases startOrStop_cases b with e | e | e <;> simp [e]

@[simp] theorem startOrStop_cap (b : Block) : (startOrStop b).cap = b.cap := by
  rcases startOrStop_cases b with e | e | e <;> simp [e]

@[simp] theorem startOrStop_page (b : Block) : (startOrStop b).page = b.page := by
  rcases startOrStop_cases b with e | e | e <;> simp [e]

/-- The capture buffer, its flag and the pages are the same data: more than that they read alike. -/
def KeepsHandOff (s t : State) : Prop :=
  t.block.capturePending = s.block.capturePending ∧ t.block.cap = s.block.cap ∧
    t.block.page = s.block.page

theorem accept_keepsHandOff {s : State} {b : Block}
    (hpending : b.capturePending = s.block.capturePending) (hcap : b.cap = s.block.cap)
    (hpage : b.page = s.block.page) : AllNext (KeepsHandOff s) (s.accept b) :=
  allNext_next ⟨hpending, hcap, hpage⟩

theorem drop_keepsHandOff (s : State) : AllNext (KeepsHandOff s) s.drop :=
  allNext_next ⟨rfl, rfl, rfl⟩

theorem respond_keepsHandOff {s : State} {b : Block} (v : Word)
    (hpending : b.capturePending = s.block.capturePending) (hcap : b.cap = s.block.cap)
    (hpage : b.page = s.block.page) : AllNext (KeepsHandOff s) (s.respond b v) :=
  allNext_next ⟨hpending, hcap, hpage⟩

/-- Only `EV_BULK_BYTE` and `PARSE` take part in the hand-off. -/
theorem exec_keepsHandOff {i : Instr} (hbyte : ∀ v, i ≠ .evBulkByte v) (hparse : i ≠ .parse)
    (s : State) : AllNext (KeepsHandOff s) (exec i s) := by
  cases i
  case evBulkByte v => exact absurd rfl (hbyte v)
  case parse => exact absurd rfl hparse
  case evPoll lv => exact accept_keepsHandOff (by simp) (by simp) (by simp)
  case evFrameEdge | evRegDone =>
    exact allNext_ite (fun _ => accept_keepsHandOff rfl rfl rfl) (fun _ => drop_keepsHandOff s)
  case evSettleExpire | evBulkWdtExpire | evRegWdtExpire | evStbyExpire =>
    exact allNext_ite (fun _ => accept_keepsHandOff rfl rfl rfl) (fun _ => allNext_notEnabled _ _)
  case hostReadPage =>
    exact allNext_ite (fun _ => respond_keepsHandOff _ rfl rfl rfl)
      (fun _ => allNext_next ⟨rfl, rfl, rfl⟩)
  all_goals exact respond_keepsHandOff _ rfl rfl rfl

/-- What a `PARSE` that has a next state did (44_parser.md R210). -/
theorem exec_parse_next {s t : State} (h : exec .parse s = .next t) :
    s.block.capturePending = true ∧ s.block.snapshotLocked = false ∧
    t.block = { s.block with
      page := parsePages s.cfg s.block.cap s.block.page
      capturePending := false
      unreadSnapshot := true } := by
  simp only [exec, execParse] at h
  split at h
  · rename_i hen
    rw [Bool.and_eq_true, Bool.not_eq_true'] at hen
    cases h
    exact ⟨hen.1, hen.2, noteStatusChange_same rfl⟩
  · cases h

/-- A completion leaves the capture buffer and its flag, or copies a frame where none is pending. -/
theorem completeFrame_copies_or_keeps (c : Config) (b : Block) :
    ((completeFrame c b).cap = b.cap ∧ (completeFrame c b).capturePending = b.capturePending) ∨
    (b.capturePending = false ∧ (completeFrame c b).capturePending = true) := by
  have hcopy := completeFrame_copy c b
  split at hcopy
  · rename_i hcopies
    exact .inr ⟨hcopies.2, (Prod.ext_iff.1 hcopy).2⟩
  · exact .inl (Prod.ext_iff.1 hcopy)

/-- `EV_BULK_BYTE` leaves the capture buffer and its flag, or copies a frame where none is pending. -/
theorem exec_evBulkByte_copies_or_keeps {v : Byte} {s t : State}
    (h : exec (.evBulkByte v) s = .next t) :
    (t.block.cap = s.block.cap ∧ t.block.capturePending = s.block.capturePending) ∨
    (s.block.capturePending = false ∧ t.block.capturePending = true) := by
  rcases exec_evBulkByte_next h with ⟨-, e⟩ | ⟨-, -, e⟩ | ⟨-, -, e⟩ <;> rw [e]
  · exact .inl ⟨rfl, rfl⟩
  · exact .inl (by simp)
  · simpa using completeFrame_copies_or_keeps s.cfg (storeBulkByte v s.block)

theorem exec_evBulkByte_page {v : Byte} {s t : State} (h : exec (.evBulkByte v) s = .next t) :
    t.block.page = s.block.page := by
  rcases exec_evBulkByte_next h with ⟨-, e⟩ | ⟨-, -, e⟩ | ⟨-, -, e⟩ <;> simp [e]

/-- What an operation can do to the capture buffer and its flag: leave both, copy a frame where none is
pending, or take a pending frame and leave the buffer. -/
theorem exec_capture_cases {i : Instr} {s t : State} (h : exec i s = .next t) :
    (t.block.cap = s.block.cap ∧ t.block.capturePending = s.block.capturePending) ∨
    ((∃ v, i = .evBulkByte v) ∧ s.block.capturePending = false ∧ t.block.capturePending = true) ∨
    (i = .parse ∧ t.block.cap = s.block.cap ∧ t.block.capturePending = false) := by
  by_cases hbyte : ∃ v, i = .evBulkByte v
  · obtain ⟨v, rfl⟩ := hbyte
    exact (exec_evBulkByte_copies_or_keeps h).imp_right fun hcopy => .inl ⟨⟨v, rfl⟩, hcopy⟩
  · by_cases hparse : i = .parse
    · subst hparse
      obtain ⟨-, -, e⟩ := exec_parse_next h
      exact .inr (.inr ⟨rfl, by rw [e], by rw [e]⟩)
    · obtain ⟨hpending, hcap, -⟩ := exec_keepsHandOff (not_exists.1 hbyte) hparse s t h
      exact .inl ⟨hcap, hpending⟩

/-- Settles O44: an operation leaves the buffer and its flag, copies where nothing is pending, or is the
`PARSE` that takes the frame; each clause is read off from these three. -/
theorem pendingFrameIsKeptForTheParser : Obligations.PendingFrameIsKeptForTheParser := by
  unfold Obligations.PendingFrameIsKeptForTheParser
  intro i s t h
  rcases exec_capture_cases h with ⟨hcap, hpending⟩ | ⟨hbyte, hs, ht⟩ | ⟨hparse, hcap, ht⟩
  · simp +contextual [hcap, hpending]
  · simp [hs, ht, hbyte]
  · simp [hcap, ht, hparse]

/-! ## A locked snapshot (20_memory.md R74) -/

theorem snapshotLocked_mem_opWrites {o : Op} (h : .snapshotLocked ∈ opWrites o) :
    o = .hostSetLock := by
  cases o <;> simp_all [opWrites]

theorem op_eq_hostSetLock {i : Instr} : i.op = .hostSetLock ↔ ∃ e, i = .hostSetLock e := by
  cases i <;> simp [Instr.op]

/-- The lock goes only by an unlock (45_host.md R234). -/
theorem exec_keeps_lock {i : Instr} {s t : State} (hs : s.block.snapshotLocked = true)
    (hi : i ≠ .hostSetLock false) (h : exec i s = .next t) : t.block.snapshotLocked = true := by
  by_contra ht
  have hw : .snapshotLocked ∈ opWrites i.op := mem_opWrites_of_changed h
    (fun e : s.block.snapshotLocked = t.block.snapshotLocked => ht (e.symm.trans hs))
  obtain ⟨e, rfl⟩ := op_eq_hostSetLock.1 (snapshotLocked_mem_opWrites hw)
  cases e
  · exact hi rfl
  · cases h
    exact ht rfl

/-- Under the lock no operation writes a page: the one that does has no transition. -/
theorem exec_locked_page {i : Instr} {s t : State} (hs : s.block.snapshotLocked = true)
    (h : exec i s = .next t) : t.block.page = s.block.page := by
  by_cases hparse : i = .parse
  · subst hparse
    obtain ⟨-, hunlocked, -⟩ := exec_parse_next h
    rw [hs] at hunlocked
    cases hunlocked
  · by_cases hbyte : ∃ v, i = .evBulkByte v
    · obtain ⟨v, rfl⟩ := hbyte
      exact exec_evBulkByte_page h
    · exact (exec_keepsHandOff (not_exists.1 hbyte) hparse s t h).2.2

/-- A locked state with given parameters and pages. -/
def LockedWith (c : Config) (page : Memory 16) (s : State) : Prop :=
  s.cfg = c ∧ s.block.snapshotLocked = true ∧ s.block.page = page

theorem performOp_lockedWith {c : Config} {page : Memory 16} {i : Instr} {s : State}
    (hi : i ≠ .hostSetLock false) (hs : LockedWith c page s) :
    AllNext (LockedWith c page) (performOp i s) := by
  obtain ⟨hcfg, hlock, hpage⟩ := hs
  intro t h
  rcases performOp_next h with he | rfl
  · exact ⟨(exec_around he).1.trans hcfg, exec_keeps_lock hlock hi he,
      (exec_locked_page hlock he).trans hpage⟩
  · exact ⟨hcfg, hlock, hpage⟩

/-- A read of a page word in range responds the word and changes no element (45_host.md R235). -/
theorem exec_hostReadPage_inRange {p i : Byte} {s : State} (h : pageInRange s.cfg p i = true) :
    exec (.hostReadPage p i) s = .next { s with
      report := some ⟨.accepted, some (s.block.pageWordAt p.toNat i.toNat)⟩ } := by
  simp only [exec, execHostReadPage, if_pos h, respond_eq]

/-- Settles O43: the lock, the pages and the parameters are kept by every operation but an unlock, so by
a run of them, and a page read responds from the pages. -/
theorem lockedSnapshotIsStable : Obligations.LockedSnapshotIsStable := by
  unfold Obligations.LockedSnapshotIsStable
  intro is s t hlock hunlock h
  obtain ⟨hcfg, hlocked, hpage⟩ : LockedWith s.cfg s.block.page t :=
    performAll_allNext (fun i hi _ hs => performOp_lockedWith (hunlock i hi) hs)
      ⟨rfl, hlock, rfl⟩ t h
  refine ⟨hlocked, hpage, fun p i hrange => ?_⟩
  rw [exec_hostReadPage_inRange (hcfg ▸ hrange), Block.pageWordAt, Block.pageWordAt, hpage]

end Sys2Proof.Machine
end

section
/-! PROOFS. The encoding (30_encoding.md R90 to R101): decoding and encoding undo each other, the rows'
match and mask read the fields of a word, and the decoder's checks are those of R96. -/

namespace Sys2Proof.Machine

/-! ## Decoding and encoding undo each other -/

/-- Settles O4: a word is its fields, an operand sets no must-be-zero bit, and an operation is read back
from its operand. -/
theorem decodeOfEncodeIsTheInstruction : Obligations.DecodeOfEncodeIsTheInstruction := by
  unfold Obligations.DecodeOfEncodeIsTheInstruction
  exact fun c i hi => decode_encode hi

theorem decode_of_unassigned {c : Config} {p : Port} {w : OpWord}
    (h : opOfOpcode (wordOpc w) = none) : decode c p w = .error .opcode := by
  simp [decode, h]

/-- The checks of 30_encoding.md R96 after the first, on a word whose opcode is a row's. -/
theorem decode_of_row {c : Config} {p : Port} {w : OpWord} {o : Op}
    (h : opOfOpcode (wordOpc w) = some o) :
    decode c p w =
      if o.port ≠ p then .error .port
      else if wordRsv w ≠ 0 then .error .reserved
      else if wordOpnd w &&& o.form.mustBeZero ≠ 0 then .error .operand
      else if (instrOf o (wordOpnd w)).wf c then .ok (instrOf o (wordOpnd w))
      else .error .range := by
  rw [← decode_wordOf, opc_of_opOfOpcode h, wordOf_fields]

/-- Where every bit from `n` on must be zero, the low `n` bits are the whole field. -/
theorem setWidth_extractLsb'_of_mustBeZero {n : Nat} {d z : Word} (hd : d &&& z = 0)
    (hz : ∀ k, k < 16 → n ≤ k → z.getLsbD k = true) : (d.extractLsb' 0 n).setWidth 16 = d := by
  apply BitVec.eq_of_getLsbD_eq
  intro k hk
  by_cases hn : k < n
  · simp [hk, hn]
  · have hbit : (d &&& z).getLsbD k = false := by simp [hd]
    rw [BitVec.getLsbD_and, hz k hk (by omega), Bool.and_true] at hbit
    simp [hn, hbit]

/-- A field with no must-be-zero bit set is the operand of the operation it stands for
(30_encoding.md R92). -/
theorem operand_instrOf {o : Op} {d : Word} (hd : d &&& o.form.mustBeZero = 0) :
    (instrOf o d).operand = d := by
  cases o with
  | crcByte | evBulkByte => exact setWidth_extractLsb'_of_mustBeZero hd (by decide)
  | evPoll => exact setWidth_extractLsb'_of_mustBeZero hd (by decide)
  | crcCheck | evRegDone | hostWriteCmd => rfl
  | hostSetLock =>
    have hbit : ∀ b : BitVec 1, (if b.getLsbD 0 then 1 else 0 : Word) = b.setWidth 16 := by decide
    have hlow := setWidth_extractLsb'_of_mustBeZero (n := 1) hd (by decide)
    rw [← hbit] at hlow
    simpa [instrOf, Instr.operand] using hlow
  | hostReadPage =>
    apply BitVec.eq_of_getLsbD_eq
    intro k hk
    by_cases h8 : k < 8
    · simp [instrOf, Instr.operand, hk, h8]
    · have hhigh : k - 8 < 8 := by omega
      have hsum : 8 + (k - 8) = k := by omega
      simp [instrOf, Instr.operand, hk, h8, hhigh, hsum]
  | _ =>
    have hall : d &&& BitVec.allOnes 16 = 0 := hd
    rw [BitVec.and_allOnes] at hall
    exact hall.symm

/-- A word decodes to an operation exactly when it is that operation's word, on the port of its class,
and the operation is well formed. -/
theorem decode_eq_ok_iff {c : Config} {p : Port} {w : OpWord} {i : Instr} :
    decode c p w = .ok i ↔ encode i = w ∧ i.op.agent.port = p ∧ i.wf c = true := by
  constructor
  · intro h
    cases hrow : opOfOpcode (wordOpc w) with
    | none => rw [decode_of_unassigned hrow] at h; cases h
    | some o =>
      rw [decode_of_row hrow] at h
      split_ifs at h with hport hrsv hopnd hwf
      cases h
      rw [encode_eq_wordOf, op_instrOf, operand_instrOf (not_not.1 hopnd), agent_port,
        opc_of_opOfOpcode hrow, ← not_not.1 hrsv, wordOf_fields]
      exact ⟨rfl, not_not.1 hport, hwf⟩
  · rintro ⟨rfl, rfl, hi⟩
    exact decode_encode hi

/-- Settles O5: the checks a decoded word passed leave no bit that its operation does not write. -/
theorem encodeOfDecodeIsTheWord : Obligations.EncodeOfDecodeIsTheWord := by
  unfold Obligations.EncodeOfDecodeIsTheWord
  exact fun c p w i h => decode_eq_ok_iff.1 h

/-! ## Match and mask (30_encoding.md R94) -/

theorem wordOf_and (a b : Byte) (d : Word) (a' b' : Byte) (d' : Word) :
    wordOf a b d &&& wordOf a' b' d' = wordOf (a &&& a') (b &&& b') (d &&& d') := by
  apply BitVec.eq_of_getLsbD_eq
  intro k hk
  simp only [BitVec.getLsbD_and, getLsbD_wordOf _ _ _ hk]
  split_ifs <;> rfl

theorem wordOf_inj {a b a' b' : Byte} {d d' : Word} :
    wordOf a b d = wordOf a' b' d' ↔ a = a' ∧ b = b' ∧ d = d' := by
  refine ⟨fun h => ⟨?_, ?_, ?_⟩, fun ⟨ha, hb, hd⟩ => by rw [ha, hb, hd]⟩
  · simpa using congrArg wordOpc h
  · simpa using congrArg wordRsv h
  · simpa using congrArg wordOpnd h

theorem maskBits_eq_wordOf (o : Op) : o.maskBits = wordOf 0xFF 0xFF o.form.mustBeZero := rfl

theorem matchBits_eq_wordOf (o : Op) : o.matchBits = wordOf o.opc 0 0 := by
  simp [Op.matchBits, wordOf]

/-- A word matches a row when it has the row's opcode, nothing reserved and no must-be-zero bit set. -/
theorem matches_iff {w : OpWord} {o : Op} :
    w &&& o.maskBits = o.matchBits ↔
      wordOpc w = o.opc ∧ wordRsv w = 0 ∧ wordOpnd w &&& o.form.mustBeZero = 0 := by
  have hones : ∀ b : Byte, b &&& 0xFF = b := fun b => BitVec.and_allOnes
  conv_lhs => rw [← wordOf_fields w]
  rw [maskBits_eq_wordOf, matchBits_eq_wordOf, wordOf_and, wordOf_inj, hones, hones]

theorem opOfOpcode_of_matches {w : OpWord} {o : Op} (h : w &&& o.maskBits = o.matchBits) :
    opOfOpcode (wordOpc w) = some o := by
  rw [(matches_iff.1 h).1, opOfOpcode_opc]

/-- A decoded word matches the row of its operation: it is that operation's word. -/
theorem matches_of_decode_ok {c : Config} {p : Port} {w : OpWord} {i : Instr}
    (h : decode c p w = .ok i) : w &&& i.op.maskBits = i.op.matchBits := by
  obtain ⟨rfl, -, -⟩ := decode_eq_ok_iff.1 h
  exact Laws.TableMatch.of_operand i

/-- On the port of the row's class a word that matches has only the range check left to pass. -/
theorem decode_of_matches {c : Config} {w : OpWord} {o : Op}
    (h : w &&& o.maskBits = o.matchBits) :
    decode c o.agent.port w =
      if (instrOf o (wordOpnd w)).wf c then .ok (instrOf o (wordOpnd w)) else .error .range := by
  obtain ⟨-, hrsv, hopnd⟩ := matches_iff.1 h
  rw [decode_of_row (opOfOpcode_of_matches h), if_neg (by simp [agent_port]),
    if_neg (by simp [hrsv]), if_neg (by simp [hopnd])]

/-- The page read is the only operation with a range check (30_encoding.md R95). -/
theorem wf_of_op_ne_hostReadPage (c : Config) {i : Instr} (h : i.op ≠ .hostReadPage) :
    i.wf c = true := by
  cases i
  case hostReadPage => exact absurd rfl h
  all_goals rfl

/-- Settles O7: a match fixes the opcode, so the row, and leaves the decoder only the range check, which
only a page read can fail. -/
theorem rowsAreDisjointAndMatched : Obligations.RowsAreDisjointAndMatched := by
  unfold Obligations.RowsAreDisjointAndMatched
  refine ⟨fun w a b ha hb => ?_, fun c p w i h => matches_of_decode_ok h, fun c w o h => ?_⟩
  · exact Option.some.inj ((opOfOpcode_of_matches ha).symm.trans (opOfOpcode_of_matches hb))
  · by_cases hwf : (instrOf o (wordOpnd w)).wf c = true
    · exact .inl ⟨_, op_instrOf o _, by rw [decode_of_matches h, if_pos hwf]⟩
    · have ho : o = .hostReadPage := by
        by_contra hne
        exact hwf (wf_of_op_ne_hostReadPage c (by rwa [op_instrOf]))
      subst ho
      exact .inr ⟨rfl, (decode_of_matches h).trans (if_neg hwf)⟩

/-! ## The checks in the spec's own ranges (30_encoding.md R96) -/

theorem toNat_wordOpc (w : OpWord) : (wordOpc w).toNat = w.toNat / 2 ^ 24 := by
  rw [wordOpc, BitVec.extractLsb'_toNat, Nat.shiftRight_eq_div_pow]
  omega

theorem toNat_wordRsv (w : OpWord) : (wordRsv w).toNat = w.toNat / 2 ^ 16 % 256 := by
  rw [wordRsv, BitVec.extractLsb'_toNat, Nat.shiftRight_eq_div_pow]

/-- The ranges of R96 item 1 are the opcodes with no row. -/
theorem opcodeUnassigned_iff (b : Byte) :
    opcodeUnassigned b.toNat = true ↔ opOfOpcode b = none := by
  revert b; decide

theorem opcodeClass_opc (o : Op) : opcodeClass o.opc.toNat = o.port := by cases o <;> rfl

theorem opcodeMustBeZero_opc (o : Op) : opcodeMustBeZero o.opc.toNat = o.form.mustBeZero := by
  cases o <;> rfl

theorem opc_eq_0x54_iff {o : Op} : o.opc.toNat = 0x54 ↔ o = .hostReadPage := by
  cases o <;> decide

/-- The range check of 30_encoding.md R95 on the operand field of a row. -/
theorem wf_instrOf_iff {c : Config} {o : Op} {d : Word} :
    (instrOf o d).wf c = true ↔
      ¬ (o.opc.toNat = 0x54 ∧
        ¬ (1 ≤ d.toNat / 256 ∧ d.toNat / 256 ≤ 5 ∧ d.toNat % 256 < c.pageWords)) := by
  rw [opc_eq_0x54_iff]
  by_cases ho : o = .hostReadPage
  · subst ho
    have hpage : (d.extractLsb' 8 8).toNat = d.toNat / 256 := by
      rw [BitVec.extractLsb'_toNat, Nat.shiftRight_eq_div_pow]
      omega
    have hindex : (d.extractLsb' 0 8).toNat = d.toNat % 256 := by
      rw [BitVec.extractLsb'_toNat, Nat.shiftRight_zero]
    simp [instrOf, Instr.wf, pageInRange, hpage, hindex, Config.pages, and_assoc]
  · simp [ho, wf_of_op_ne_hostReadPage c (i := instrOf o d) (by rwa [op_instrOf])]

theorem firstFailedCheck_of_unassigned {c : Config} {p : Port} {w : OpWord}
    (h : opOfOpcode (wordOpc w) = none) : firstFailedCheck c p w = some .opcode := by
  simp only [firstFailedCheck, ← toNat_wordOpc, (opcodeUnassigned_iff _).2 h, if_true]

/-- Where the opcode is a row's, the spec's ranges ask what the row's columns say. -/
theorem firstFailedCheck_of_row {c : Config} {p : Port} {w : OpWord} {o : Op}
    (h : opOfOpcode (wordOpc w) = some o) :
    firstFailedCheck c p w =
      if o.port ≠ p then some .port
      else if wordRsv w ≠ 0 then some .reserved
      else if wordOpnd w &&& o.form.mustBeZero ≠ 0 then some .operand
      else if (instrOf o (wordOpnd w)).wf c then none
      else some .range := by
  have hassigned : ¬ opcodeUnassigned o.opc.toNat = true := by simp [opcodeUnassigned_iff]
  have hrsv : (wordRsv w).toNat ≠ 0 ↔ wordRsv w ≠ 0 := by simp [← BitVec.toNat_inj]
  have hopnd : w.extractLsb' 0 16 = wordOpnd w := rfl
  simp only [firstFailedCheck, ← toNat_wordOpc, ← toNat_wordRsv, ← opc_of_opOfOpcode h,
    opcodeClass_opc, opcodeMustBeZero_opc, hopnd, hrsv, if_neg hassigned, ne_comm (a := p),
    wf_instrOf_iff, ite_not]

/-- The decoder's code is the code of R96's first failing check. -/
theorem firstFailedCheck_eq_some_iff {c : Config} {p : Port} {w : OpWord} {e : IllegalCode} :
    firstFailedCheck c p w = some e ↔ decode c p w = .error e := by
  cases hrow : opOfOpcode (wordOpc w) with
  | none => simp [firstFailedCheck_of_unassigned hrow, decode_of_unassigned hrow]
  | some o =>
    rw [firstFailedCheck_of_row hrow, decode_of_row hrow]
    split_ifs <;> simp

/-- A step that takes an illegal word takes the exception and does nothing else. -/
theorem step_illegal {s : State} {p : Port} {w : OpWord} {rest : List Input} {e : IllegalCode}
    (hq : s.inputs = .op p w :: rest) (hr : s.inReset = false)
    (hd : decode s.cfg p w = .error e) : step s = State.illegal { s with inputs := rest } p e := by
  rw [step_cons hq]
  simp [takeInput, takeWord, hr, hd]

/-- Settles O6: the decoder's checks are R96's, and a step that takes a word with a failing check is the
exception with its code. -/
theorem illegalWordsRaiseTheFirstFailingCode : Obligations.IllegalWordsRaiseTheFirstFailingCode := by
  unfold Obligations.IllegalWordsRaiseTheFirstFailingCode
  refine ⟨fun c p w h => ?_, fun c p w e h => firstFailedCheck_eq_some_iff.1 h,
    fun s w rest e hq hr h => ?_, fun s w rest e hq hr h => ?_⟩
  · cases hd : decode c p w with
    | ok i => exact ⟨i, rfl⟩
    | error e => rw [firstFailedCheck_eq_some_iff.2 hd] at h; cases h
  · rw [step_illegal hq hr (firstFailedCheck_eq_some_iff.1 h)]
    cases e <;> rfl
  · exact step_illegal hq hr (firstFailedCheck_eq_some_iff.1 h)

/-! ## Worked encodings -/

/-- Settles O8: each word decodes because it is the word of the operation on its port; what is left are
the nine words and texts. -/
theorem workedEncodings : Obligations.WorkedEncodings := by
  unfold Obligations.WorkedEncodings
  simp only [decode_eq_ok_iff]
  decide

end Sys2Proof.Machine
end

section
/-! PROOFS. The CRC unit (40_crc.md R110 to R125): the update folds a byte into eight rounds of the bit
loop, so a sequence's last two bytes give sixteen; from this the residue, the error detection and the
frame functions, and from the four meanings what a run of them responds. -/

namespace Sys2Proof.Machine

/-! ## The bit loop (40_crc.md R111) -/

theorem crcRounds_eq_iterate (n : Nat) (c : Word) : crcRounds n c = crcRound^[n] c := by
  induction n generalizing c with
  | zero => rfl
  | succ n ih => rw [crcRounds, ih, Function.iterate_succ_apply]

theorem crcRounds_crcRounds (m n : Nat) (c : Word) :
    crcRounds m (crcRounds n c) = crcRounds (m + n) c := by
  simp only [crcRounds_eq_iterate, Function.iterate_add_apply]

theorem crcRounds_eq_zero_iff {n : Nat} {c : Word} : crcRounds n c = 0 ↔ c = 0 :=
  ⟨crcRounds_eq_zero, fun h => h ▸ crcRounds_zero n⟩

theorem crcRounds_inj {n : Nat} {x y : Word} : crcRounds n x = crcRounds n y ↔ x = y := by
  rw [← BitVec.xor_eq_zero_iff, ← crcRounds_xor]
  exact crcRounds_eq_zero_iff.trans BitVec.xor_eq_zero_iff

/-! ## A word and its two bytes -/

theorem getLsbD_pairWord (lo hi : Byte) {k : Nat} (hk : k < 16) :
    (pairWord lo hi).getLsbD k = if k < 8 then lo.getLsbD k else hi.getLsbD (k - 8) := by
  by_cases h8 : k < 8
  · simp [pairWord, hk, h8]
  · simp [pairWord, hk, h8, BitVec.getLsbD_of_ge lo k (by omega)]

@[simp] theorem pairWord_lowByte_highByte (v : Word) : pairWord (lowByte v) (highByte v) = v := by
  apply BitVec.eq_of_getLsbD_eq
  intro k hk
  rw [getLsbD_pairWord _ _ hk, lowByte, highByte, BitVec.getLsbD_extractLsb',
    BitVec.getLsbD_extractLsb']
  by_cases h8 : k < 8
  · simp [h8]
  · have hhigh : k - 8 < 8 := by omega
    have hsum : 8 + (k - 8) = k := by omega
    simp [h8, hhigh, hsum]

/-- The two bytes of a word do not overlap. -/
theorem pairWord_eq_xor (lo hi : Byte) :
    pairWord lo hi = lo.setWidth 16 ^^^ hi.setWidth 16 <<< 8 := by
  apply BitVec.eq_of_getLsbD_eq
  intro k hk
  rw [getLsbD_pairWord _ _ hk]
  by_cases h8 : k < 8
  · simp [hk, h8]
  · simp [hk, h8, BitVec.getLsbD_of_ge lo k (by omega)]

theorem lowByte_eq_and (v : Word) : (v &&& 0x00FF).setWidth 8 = lowByte v := by
  apply BitVec.eq_of_getLsbD_eq
  intro k hk
  have hmask : ∀ j, j < 8 → (0x00FF : Word).getLsbD j = true := by decide
  rw [BitVec.getLsbD_setWidth, BitVec.getLsbD_and, hmask k hk]
  simp [lowByte]

theorem highByte_eq_shiftRight (v : Word) : (highByte v).setWidth 16 = v >>> 8 := by
  apply BitVec.eq_of_getLsbD_eq
  intro k hk
  by_cases h8 : k < 8
  · simp [highByte, hk, h8]
  · simp [highByte, h8, BitVec.getLsbD_of_ge v (8 + k) (by omega)]

theorem highByte_xor_byte (v : Word) (b : Byte) : highByte (v ^^^ b.setWidth 16) = highByte v := by
  apply BitVec.eq_of_getLsbD_eq
  intro k _
  simp [highByte]

/-! ## The update (40_crc.md R112, R113) -/

/-- Eight rounds take a byte from the high half of a word to the low half. -/
theorem crcRounds_shiftLeft (b : Byte) : crcRounds 8 (b.setWidth 16 <<< 8) = b.setWidth 16 := by
  rw [crcRounds_of_low_zero (by simp +contextual)]
  apply BitVec.eq_of_getLsbD_eq
  intro k hk
  by_cases h8 : k < 8
  · have hsum : 8 + k < 16 := by omega
    simp [hk, hsum]
  · simp [BitVec.getLsbD_of_ge b k (by omega)]

/-- Eight rounds look the low byte up in the table and only shift the high byte. -/
theorem crcRounds_pairWord (lo hi : Byte) :
    crcRounds 8 (pairWord lo hi) = crcTable lo ^^^ hi.setWidth 16 := by
  rw [pairWord_eq_xor, crcRounds_xor, crcRounds_shiftLeft, crcTable]

/-- The table update is eight rounds from the remainder with the byte folded in. -/
theorem crcUpdate_eq_crcRounds (c : Word) (b : Byte) :
    crcUpdate c b = crcRounds 8 (c ^^^ b.setWidth 16) := by
  rw [← pairWord_lowByte_highByte (c ^^^ b.setWidth 16), crcRounds_pairWord, highByte_xor_byte,
    highByte_eq_shiftRight, ← lowByte_eq_and, BitVec.xor_comm, crcUpdate]

/-- Settles O20: the rounds are linear, so the two halves of the folded remainder go through them apart,
the low byte to its table entry and the high byte by a shift. -/
theorem tableUpdateEqualsBitwiseUpdate : Obligations.TableUpdateEqualsBitwiseUpdate := by
  unfold Obligations.TableUpdateEqualsBitwiseUpdate
  intro c b
  exact ⟨(crcUpdate_eq_crcRounds c b).trans (crcRounds_eq_iterate 8 _),
    (crcUpdate_eq_crcRounds c b).symm⟩

/-- Two updates are sixteen rounds from the remainder with both bytes folded in. -/
theorem crcUpdate_crcUpdate (c : Word) (b0 b1 : Byte) :
    crcUpdate (crcUpdate c b0) b1 = crcRounds 16 (c ^^^ pairWord b0 b1) := by
  rw [crcUpdate_eq_crcRounds, crcUpdate_eq_crcRounds, ← crcRounds_shiftLeft b1, ← crcRounds_xor,
    crcRounds_crcRounds, BitVec.xor_assoc, ← pairWord_eq_xor]

theorem crcUpdate_left_inj {c d : Word} {b : Byte} : crcUpdate c b = crcUpdate d b ↔ c = d := by
  rw [crcUpdate_eq_crcRounds, crcUpdate_eq_crcRounds, crcRounds_inj, BitVec.xor_left_inj]

theorem crcUpdate_right_inj {c : Word} {a b : Byte} : crcUpdate c a = crcUpdate c b ↔ a = b := by
  rw [crcUpdate_eq_crcRounds, crcUpdate_eq_crcRounds, crcRounds_inj, BitVec.xor_right_inj]
  exact ⟨fun h => by simpa using congrArg (BitVec.setWidth 8) h, fun h => h ▸ rfl⟩

/-! ## The fold over a byte sequence (40_crc.md R118) -/

@[simp] theorem crcFold_nil (c : Word) : crcFold c [] = c := rfl

@[simp] theorem crcFold_cons (c : Word) (b : Byte) (m : List Byte) :
    crcFold c (b :: m) = crcFold (crcUpdate c b) m := rfl

theorem crcFold_append (c : Word) (m n : List Byte) :
    crcFold c (m ++ n) = crcFold (crcFold c m) n := List.foldl_append

theorem crc16_append (m n : List Byte) : crc16 (m ++ n) = crcFold (crc16 m) n :=
  crcFold_append crcStart m n

theorem crcFold_inj {c d : Word} {m : List Byte} : crcFold c m = crcFold d m ↔ c = d := by
  induction m generalizing c d with
  | nil => rfl
  | cons b m ih => rw [crcFold_cons, crcFold_cons, ih, crcUpdate_left_inj]

/-- The remainder of a sequence tells apart the values of any one of its bytes. -/
theorem crcFold_set_eq_iff {c : Word} {m : List Byte} {j : Nat} {b : Byte} (hj : j < m.length) :
    crcFold c (m.set j b) = crcFold c m ↔ b = m.getD j 0 := by
  induction m generalizing c j with
  | nil => cases hj
  | cons a m ih =>
    cases j with
    | zero => simp [crcFold_inj, crcUpdate_right_inj]
    | succ j => simpa using ih (Nat.lt_of_succ_lt_succ hj)

/-! ## Frames and their trailers (40_crc.md R119, R121, R123, R124) -/

/-- A frame is what its trailer covers and its last two bytes. -/
theorem take_append_lastTwo {f : List Byte} (hf : 2 ≤ f.length) :
    f.take (f.length - 2) ++ [f.getD (f.length - 2) 0, f.getD (f.length - 1) 0] = f := by
  obtain ⟨g, hi, rfl⟩ := (List.eq_nil_or_concat f).resolve_left (by rintro rfl; simp at hf)
  obtain ⟨m, lo, rfl⟩ := (List.eq_nil_or_concat g).resolve_left (by rintro rfl; simp at hf)
  simp

@[simp] theorem length_frameGenerate (m : List Byte) :
    (frameGenerate m).length = m.length + 2 := by
  simp [frameGenerate, trailerBytes]

@[simp] theorem frameTrailer_frameGenerate (m : List Byte) :
    frameTrailer (frameGenerate m) = crc16 m := by
  simp [frameTrailer, frameGenerate, trailerBytes]

/-- The remainder of a frame is sixteen rounds from the difference between the CRC and the trailer. -/
theorem crc16_eq_crcRounds {f : List Byte} (hf : 2 ≤ f.length) :
    crc16 f = crcRounds 16 (crc16 (f.take (f.length - 2)) ^^^ frameTrailer f) := by
  conv_lhs => rw [← take_append_lastTwo hf]
  exact (crc16_append _ _).trans (crcUpdate_crcUpdate _ _ _)

theorem crc16_eq_zero_iff {f : List Byte} (hf : 2 ≤ f.length) :
    crc16 f = 0 ↔ trailerMatches f := by
  rw [crc16_eq_crcRounds hf, crcRounds_eq_zero_iff]
  exact BitVec.xor_eq_zero_iff

theorem trailerMatches_frameGenerate (m : List Byte) : trailerMatches (frameGenerate m) := by
  rw [trailerMatches, frameTrailer_frameGenerate, length_frameGenerate, Nat.add_sub_cancel,
    frameGenerate, List.take_left]

theorem crc16_frameGenerate (m : List Byte) : crc16 (frameGenerate m) = 0 :=
  (crc16_eq_zero_iff (by simp)).2 (trailerMatches_frameGenerate m)

/-- Settles O22: the remainder of a frame is sixteen rounds from CRC and trailer folded together, and
only zero goes to zero. -/
theorem residueIsZero : Obligations.ResidueIsZero := by
  unfold Obligations.ResidueIsZero
  exact ⟨crc16_frameGenerate, fun f hf => crc16_eq_zero_iff hf⟩

/-- A frame with one byte changed is not accepted where the frame is. -/
theorem not_trailerMatches_set {f : List Byte} {j : Nat} {b : Byte} (hf : 2 ≤ f.length)
    (hj : j < f.length) (hb : b ≠ f.getD j 0) (h : trailerMatches f) :
    ¬ trailerMatches (f.set j b) := by
  rw [← crc16_eq_zero_iff (by simpa using hf), ← (crc16_eq_zero_iff hf).2 h]
  exact fun e => hb ((crcFold_set_eq_iff hj).1 e)

theorem xor_twoPow_ne (b : Byte) {k : Nat} (hk : k < 8) : b ^^^ BitVec.twoPow 8 k ≠ b := by
  intro h
  have hbit := congrArg (fun x : Byte => x.getLsbD k) h
  simp [hk] at hbit

/-- Settles O23: a flipped bit changes one byte, and the residue tells the values of a byte apart. -/
theorem singleBitErrorsAreDetected : Obligations.SingleBitErrorsAreDetected := by
  unfold Obligations.SingleBitErrorsAreDetected
  refine ⟨trailerMatches_frameGenerate, fun m j k hj hk => ?_⟩
  exact not_trailerMatches_set (by simp) hj (xor_twoPow_ne _ hk) (trailerMatches_frameGenerate m)

theorem frameValidate_eq_ok_iff {f : List Byte} {addr : Byte} {n : Nat} :
    frameValidate f addr n = .ok ↔ f.length = n ∧ f.getD 0 0 = addr ∧ trailerMatches f := by
  unfold frameValidate
  split_ifs with hlen haddr hcrc
  · exact ⟨nofun, fun h => absurd h.1 hlen⟩
  · exact ⟨nofun, fun h => absurd h.2.1 haddr⟩
  · exact ⟨nofun, fun h => absurd h.2.2 hcrc⟩
  · exact ⟨fun _ => ⟨not_not.1 hlen, not_not.1 haddr, not_not.1 hcrc⟩, fun _ => rfl⟩

/-- Settles O24: each clause is one way through the three checks, and a request carries the trailer the
third one asks for. -/
theorem frameValidateChecksInOrder : Obligations.FrameValidateChecksInOrder := by
  unfold Obligations.FrameValidateChecksInOrder
  refine ⟨fun m => rfl, fun f addr n hn => ⟨fun hlen => ?_, ?_, ?_, ?_⟩,
    fun addr fc reg val => ⟨rfl, rfl, rfl, ?_⟩⟩
  · exact if_pos hlen
  · rintro rfl haddr
    rw [frameValidate, if_neg (by simp), if_pos haddr]
  · rintro rfl haddr hcrc
    rw [frameValidate, if_neg (by simp), if_neg (by simpa using haddr)]
    exact if_pos hcrc
  · rintro rfl haddr hcrc
    exact frameValidate_eq_ok_iff.2 ⟨rfl, haddr, hcrc⟩
  · exact frameValidate_eq_ok_iff.2 ⟨rfl, rfl, trailerMatches_frameGenerate _⟩

/-! ## The table (40_crc.md R111 and section 6) -/

/-- The `k` entries of the table from index `a` on. -/
def tableFrom (a k : Nat) : List Word := (List.range' a k).map fun n => crcTable (BitVec.ofNat 8 n)

theorem tableFrom_append (a k l : Nat) :
    tableFrom a k ++ tableFrom (a + k) l = tableFrom a (k + l) := by
  rw [tableFrom, tableFrom, tableFrom, ← List.map_append, List.range'_append_1]

theorem crcTableRows0_eq_tableFrom : crcTableRows0 = tableFrom 0x00 64 := by decide
theorem crcTableRows1_eq_tableFrom : crcTableRows1 = tableFrom 0x40 64 := by decide
theorem crcTableRows2_eq_tableFrom : crcTableRows2 = tableFrom 0x80 64 := by decide
theorem crcTableRows3_eq_tableFrom : crcTableRows3 = tableFrom 0xC0 64 := by decide

theorem crcTableListed_eq_tableFrom : crcTableListed = tableFrom 0 256 := by
  rw [crcTableListed, crcTableRows0_eq_tableFrom, crcTableRows1_eq_tableFrom,
    crcTableRows2_eq_tableFrom, crcTableRows3_eq_tableFrom, tableFrom_append 0 64 64,
    tableFrom_append 0 128 64, tableFrom_append 0 192 64]

theorem length_tableFrom (a k : Nat) : (tableFrom a k).length = k := by
  rw [tableFrom, List.length_map, List.length_range']

/-- Settles O19: the rounds are the rule's loop, and the listed rows join up to the whole table. -/
theorem tableIsTheListedOne : Obligations.TableIsTheListedOne := by
  unfold Obligations.TableIsTheListedOne
  rw [crcTableListed_eq_tableFrom]
  refine ⟨fun n => crcRounds_eq_iterate 8 _, length_tableFrom 0 256, fun n hn => ?_⟩
  simp [tableFrom, hn]

/-! ## The meanings (40_crc.md R114 to R117) -/

section
variable (s : State)

theorem exec_crcInit : exec .crcInit s = .next { s with
    block := { s.block with crc := crcStart }, report := some ⟨.accepted, some 0x0000⟩ } := rfl

theorem exec_crcByte (b : Byte) : exec (.crcByte b) s = .next { s with
    block := { s.block with crc := crcUpdate s.block.crc b }
    report := some ⟨.accepted, some 0x0000⟩ } := rfl

theorem exec_crcRead : exec .crcRead s =
    .next { s with report := some ⟨.accepted, some s.block.crc⟩ } := rfl

theorem exec_crcCheck (t : Word) : exec (.crcCheck t) s = .next { s with
    report := some ⟨.accepted, some (if s.block.crc = t then 0x0001 else 0x0000)⟩ } := rfl

end

/-- Settles O15: the row of the opcode map, and the meaning. -/
theorem crcInitRule : Obligations.CrcInitRule := by
  unfold Obligations.CrcInitRule
  exact ⟨rowEncodes .crcInit, exec_crcInit⟩

/-- Settles O16: the row of the opcode map, and the meaning. -/
theorem crcByteRule : Obligations.CrcByteRule := by
  unfold Obligations.CrcByteRule
  exact ⟨rowEncodes .crcByte, fun b s => exec_crcByte s b⟩

/-- Settles O17: the row of the opcode map, and the meaning. -/
theorem crcReadRule : Obligations.CrcReadRule := by
  unfold Obligations.CrcReadRule
  exact ⟨rowEncodes .crcRead, exec_crcRead⟩

/-- Settles O18: the row of the opcode map, and the meaning for an equal and an unequal operand. -/
theorem crcCheckRule : Obligations.CrcCheckRule := by
  unfold Obligations.CrcCheckRule
  refine ⟨rowEncodes .crcCheck, fun t s => ⟨fun h => ?_, fun h => ?_⟩⟩
  · rw [exec_crcCheck, if_pos h]
  · rw [exec_crcCheck, if_neg h]

/-! ## Runs of CRC operations (40_crc.md R118) -/

theorem performAll_cons_of_next {i : Instr} {is : List Instr} {s t : State}
    (h : exec i s = .next t) : performAll (i :: is) s = performAll is t := by
  rw [performAll, performOp, h, settleOutcome]

/-- A byte sequence is folded in byte by byte; every byte answers `0x0000`, as the operation before the
sequence has. -/
theorem performAll_crcBytes (m : List Byte) (is : List Instr) {s : State}
    (hs : s.report = some ⟨.accepted, some 0x0000⟩) :
    performAll (m.map .crcByte ++ is) s =
      performAll is { s with block := { s.block with crc := crcFold s.block.crc m } } := by
  induction m generalizing s with
  | nil => rfl
  | cons b m ih =>
    rw [List.map_cons, List.cons_append, performAll_cons_of_next (exec_crcByte s b), ih rfl, ← hs]
    rfl

/-- `CRC_FRAME m` leaves `crc16 m` in `CRC` and changes nothing else (40_crc.md R118). -/
theorem performAll_crcFrameOps (m : List Byte) (is : List Instr) (s : State) :
    performAll (crcFrameOps m ++ is) s = performAll is { s with
      block := { s.block with crc := crc16 m }, report := some ⟨.accepted, some 0x0000⟩ } := by
  rw [crcFrameOps, List.cons_append, performAll_cons_of_next (exec_crcInit s),
    performAll_crcBytes m is rfl]
  rfl

/-- Settles O21: the frame's operations leave its CRC in `CRC`, which the read responds. -/
theorem crcFrameThenReadRespondsCrc16 : Obligations.CrcFrameThenReadRespondsCrc16 := by
  unfold Obligations.CrcFrameThenReadRespondsCrc16
  refine ⟨fun m s => ?_, rfl, fun m b => crc16_append m [b]⟩
  rw [performAll_crcFrameOps, performAll_cons_of_next (exec_crcRead _), performAll]

end Sys2Proof.Machine
end

section
/-! PROOFS. The bulk capture path (41_bulk_capture.md R141 to R147): the meaning of each event, the
frame that the bytes of a whole transfer leave in the active half, and what a completion does with
it. -/

namespace Sys2Proof.Machine

/-! ## Edges and timers (41_bulk_capture.md R141, R142, R144) -/

/-- An accepted event that keeps `STATUS` writes what its update writes and nothing more. -/
theorem accept_of_status_eq {s : State} {b : Block} (h : b.status = s.block.status) :
    s.accept b = .next { s with block := b, report := some ⟨.accepted, none⟩ } := by
  rw [accept_eq, noteStatusChange_same h]

/-- Settles O26: the row of the opcode map, and the two ends of the meaning. -/
theorem frameEdgeRule : Obligations.FrameEdgeRule := by
  unfold Obligations.FrameEdgeRule
  refine ⟨rowEncodes .evFrameEdge, fun s => ⟨fun hsync => ?_, fun hother => if_neg hother⟩⟩
  exact (if_pos hsync).trans (accept_of_status_eq rfl)

/-- Settles O27: the row of the opcode map, and the two ends of the meaning. -/
theorem settleExpireRule : Obligations.SettleExpireRule := by
  unfold Obligations.SettleExpireRule
  refine ⟨rowEncodes .evSettleExpire, fun s => ⟨fun harmed => ?_, fun hidle => ?_⟩⟩
  · exact (if_pos harmed).trans (accept_of_status_eq rfl)
  · exact if_neg (Bool.eq_false_iff.1 hidle)

/-- Writing a flag changes the word exactly when the flag had the other value. -/
theorem setStatusFlag_ne_iff {f : StatusFlag} {v : Bool} {w : Word} :
    setStatusFlag f v w ≠ w ↔ statusFlag f w ≠ v :=
  not_congr ⟨fun h => by rw [← h, statusFlag_setStatusFlag, if_pos rfl], setStatusFlag_same⟩

/-- An armed watchdog aborts the transfer; the end notes whether `BULK_LIVE` fell. -/
theorem exec_evBulkWdtExpire_armed {s : State} (h : s.block.bulkWdtArmed = true) :
    exec .evBulkWdtExpire s = s.accept { s.block with
      bulkWdtArmed := false, status := setStatusFlag .bulkLive false s.block.status
      bulkSt := .sync, bulkPos := 0 } :=
  if_pos h

/-- Settles O29: the row of the opcode map, the abort with the frame of the operation, and no
transition where the watchdog is not armed. -/
theorem bulkWatchdogRule : Obligations.BulkWatchdogRule := by
  unfold Obligations.BulkWatchdogRule
  refine ⟨rowEncodes .evBulkWdtExpire, fun s => ⟨fun harmed => ?_, fun hidle => ?_⟩⟩
  · have hexec := exec_evBulkWdtExpire_armed harmed
    refine ⟨_, hexec, rfl, rfl, ?_, rfl, rfl, ?_, exec_framed .evBulkWdtExpire s _ hexec⟩
    · simp [Block.flag]
    · simp [Block.flag, setStatusFlag_ne_iff]
  · exact if_neg (Bool.eq_false_iff.1 hidle)

/-! ## Compare and copy (41_bulk_capture.md R143, R145) -/

theorem framesDiffer_iff {c : Config} {x y : List Host.Cell} :
    framesDiffer c x y = true ↔ ∃ j, j < c.frameLen ∧ Memory.read x j ≠ Memory.read y j := by
  simp [framesDiffer]

theorem framesDiffer_eq_false_iff {c : Config} {x y : List Host.Cell} :
    framesDiffer c x y = false ↔ ∀ j, j < c.frameLen → Memory.read x j = Memory.read y j := by
  simp [framesDiffer]

theorem read_copyFrame {c : Config} {x cap : List Host.Cell} (hcap : Memory.wf cap = true)
    (j : Nat) : Memory.read (copyFrame c x cap) j =
      if j < c.frameLen then Memory.read x j else Memory.read cap j := by
  simp [copyFrame, read_writeAll hcap]

/-- A completed frame that differs from the other half is copied where nothing is pending. -/
theorem completeFrame_copies {c : Config} {b : Block} (hfree : b.capturePending = false)
    (hdiffer : framesDiffer c (b.rx b.bulkAct) (b.rx b.bulkAct.other) = true) :
    (completeFrame c b).capturePending = true ∧
      (completeFrame c b).cap = copyFrame c (b.rx b.bulkAct) b.cap := by
  have hcopy := completeFrame_copy c b
  rw [if_pos ⟨hdiffer, hfree⟩] at hcopy
  exact (Prod.ext_iff.1 hcopy).symm

/-- A completed frame is not copied where one is pending or the other half holds the same. -/
theorem completeFrame_keeps {c : Config} {b : Block} (h : b.capturePending = true ∨
    framesDiffer c (b.rx b.bulkAct) (b.rx b.bulkAct.other) = false) :
    (completeFrame c b).capturePending = b.capturePending ∧ (completeFrame c b).cap = b.cap := by
  have hcopy := completeFrame_copy c b
  rw [if_neg (by rcases h with h | h <;> simp [h])] at hcopy
  exact (Prod.ext_iff.1 hcopy).symm

/-! ## One byte (41_bulk_capture.md R143) -/

/-- The state after a byte that does not end its frame. -/
def State.afterInnerByte (v : Byte) (s : State) : State :=
  { s with
    block := { storeBulkByte v s.block with bulkPos := s.block.bulkPos + 1 }
    report := some ⟨.accepted, none⟩ }

section
variable {v : Byte} {s : State}

theorem exec_evBulkByte_dropped (hx : s.block.bulkSt ≠ .xfer) :
    exec (.evBulkByte v) s = .next { s with report := some ⟨.drop, none⟩ } :=
  if_pos hx

theorem exec_evBulkByte_inner (hx : s.block.bulkSt = .xfer)
    (hin : s.block.bulkPos.toNat + 1 < s.cfg.frameLen) :
    exec (.evBulkByte v) s = .next (s.afterInnerByte v) := by
  rw [exec, execEvBulkByte, if_neg (not_not.2 hx), if_neg (by omega), if_pos hin]
  exact accept_of_status_eq (storeBulkByte_status v s.block)

theorem exec_evBulkByte_last (hx : s.block.bulkSt = .xfer)
    (hend : s.block.bulkPos.toNat + 1 = s.cfg.frameLen) :
    exec (.evBulkByte v) s = s.accept (completeFrame s.cfg (storeBulkByte v s.block)) := by
  rw [exec, execEvBulkByte, if_neg (not_not.2 hx), if_neg (by omega), if_neg (by omega)]

end

/-- A stored byte is written to the half `BULK_ACT` alone. -/
theorem storeBulkByte_keepsOutside_active (v : Byte) (b : Block) :
    b.KeepsOutside [.rxbuf b.bulkAct] (storeBulkByte v b) := by
  intro e he
  cases e with
  | rxbuf a =>
    have hne : a ≠ b.bulkAct := by simpa using he
    simp [Block.agree, hne]
  | _ => simp [Block.agree, Block.btnReq]

theorem read_storeBulkByte_active {b : Block} (hwf : Memory.wf (b.rx b.bulkAct) = true) (v : Byte)
    (j : Nat) : Memory.read ((storeBulkByte v b).rx b.bulkAct) j =
      if j = b.bulkPos.toNat then v else Memory.read (b.rx b.bulkAct) j := by
  rw [rx_storeBulkByte, if_pos rfl, read_write hwf]

/-- Outside the elements of a completion and the active half, the last byte changes nothing. -/
theorem completeFrame_storeBulkByte_keepsOutside (c : Config) (v : Byte) (b : Block) :
    b.KeepsOutside [.rxbuf b.bulkAct, .bulkPos, .capbuf, .capturePending, .bulkAct, .bulkWdtArmed,
      .statusFlag .bulkLive] (completeFrame c (storeBulkByte v b)) :=
  keepsOutside_trans (keepsOutside_mono (storeBulkByte_keepsOutside_active v b) (by simp))
    (keepsOutside_mono (completeFrame_keepsOutside c _) (by simp))

/-- A completion notes the rise of `BULK_LIVE`. -/
theorem noteStatusChange_completeFrame_unreadStatus {c : Config} {a b : Block}
    (hstatus : b.status = a.status) : (noteStatusChange a (completeFrame c b)).unreadStatus =
      (b.unreadStatus || !a.flag .bulkLive) := by
  simp [hstatus, Block.flag, setStatusFlag_ne_iff]

/-- Settles O28: the row of the opcode map, the drop, an inner byte, and the last byte with the
compare and the copy of `completeFrame`. -/
theorem bulkByteRule : Obligations.BulkByteRule := by
  unfold Obligations.BulkByteRule
  refine ⟨rowEncodes .evBulkByte, fun v s hx => exec_evBulkByte_dropped hx,
    fun v s hx hin hwf => ?_, fun v s hx hend hwf hcap => ?_⟩
  · refine ⟨_, exec_evBulkByte_inner hx hin, rfl, fun j => ?_, rfl, ?_⟩
    · exact (congrArg (Memory.read · j) (rx_congr rfl rfl _)).trans
        (read_storeBulkByte_active hwf v j)
    · exact keepsOutside_trans
        (keepsOutside_mono (storeBulkByte_keepsOutside_active v s.block) (by simp))
        (keepsOutside_mono (setBulkPos_keepsOutside _ _) (by simp))
  · have hkeeps := completeFrame_storeBulkByte_keepsOutside s.cfg v s.block
    refine ⟨_, exec_evBulkByte_last hx hend, rfl, fun j => ?_, by simp, by simp, by simp, by simp,
      ?_, ?_, ?_, ?_⟩
    · rw [rx_noteStatusChange, rx_completeFrame, read_storeBulkByte_active hwf]
    · rw [noteStatusChange_completeFrame_unreadStatus (storeBulkByte_status v s.block),
        storeBulkByte_unreadStatus]
    · intro hfree hdiffer
      obtain ⟨hpending, hcopy⟩ := completeFrame_copies (c := s.cfg) (b := storeBulkByte v s.block)
        (by simpa using hfree) (framesDiffer_iff.2 (by simpa using hdiffer))
      refine ⟨hpending, fun j => ?_⟩
      rw [noteStatusChange_cap, hcopy, read_copyFrame (by simpa using hcap)]
      simp
    · intro hsame
      obtain ⟨hpending, hkeep⟩ := completeFrame_keeps (c := s.cfg) (b := storeBulkByte v s.block)
        (hsame.imp (by simp) fun h => framesDiffer_eq_false_iff.2 (by simpa using h))
      simp [hpending, hkeep]
    · exact keepsOutside_trans (keepsOutside_mono hkeeps (by simp))
        (keepsOutside_mono (noteStatusChange_keepsOutside _ _) (by simp))

/-! ## A whole frame (41_bulk_capture.md R143, R148) -/

/-- The block with the bytes `f` in the active half at the indexes listed. -/
def Block.fillActive (f : Nat → Byte) (ks : List Nat) (b : Block) : Block :=
  b.setRx b.bulkAct (Memory.writeAll f ks (b.rx b.bulkAct))

/-- A byte stored at `BULK_POS` is the first of a list of indexes filled; the completion does not
read the position. -/
theorem completeFrame_fillActive_storeBulkByte (c : Config) (f : Nat → Byte) (ks : List Nat)
    (b : Block) (pos : BitVec 11) :
    completeFrame c (Block.fillActive f ks
        { storeBulkByte (f b.bulkPos.toNat) b with bulkPos := pos }) =
      completeFrame c (b.fillActive f (b.bulkPos.toNat :: ks)) := by
  cases h : b.bulkAct <;>
    simp [Block.fillActive, storeBulkByte, Block.setRx, Block.rx, h, completeFrame, Memory.writeAll]

/-- An event after an inner byte ends as it would have before: the byte changed no `STATUS`. -/
theorem accept_afterInnerByte (v : Byte) (s : State) (b : Block) :
    (s.afterInnerByte v).accept b = s.accept b := by
  have hstatus : (s.afterInnerByte v).block.status = s.block.status :=
    storeBulkByte_status v s.block
  simp only [accept_eq, noteStatusChange, hstatus]
  rfl

theorem toNat_afterInnerByte_bulkPos {v : Byte} {s : State} (hc : s.cfg.wf)
    (hin : s.block.bulkPos.toNat + 1 < s.cfg.frameLen) :
    (s.afterInnerByte v).block.bulkPos.toNat = s.block.bulkPos.toNat + 1 := by
  have hlen := hc.1.2
  exact BitVec.toNat_add_of_lt (y := 1) (Nat.lt_of_lt_of_le hin hlen)

/-- The bytes from `BULK_POS` to the end of the frame fill the active half and complete it. -/
theorem performAll_bytesToEnd (f : Nat → Byte) {n : Nat} {s : State} (hc : s.cfg.wf)
    (hx : s.block.bulkSt = .xfer) (hend : s.block.bulkPos.toNat + n + 1 = s.cfg.frameLen) :
    performAll ((List.range' s.block.bulkPos.toNat (n + 1)).map fun j => .evBulkByte (f j)) s =
      s.accept (completeFrame s.cfg
        (s.block.fillActive f (List.range' s.block.bulkPos.toNat (n + 1)))) := by
  induction n generalizing s with
  | zero => exact performAll_cons_of_next (exec_evBulkByte_last hx hend)
  | succ n ih =>
    have hin : s.block.bulkPos.toNat + 1 < s.cfg.frameLen := by omega
    have hpos := toNat_afterInnerByte_bulkPos (v := f s.block.bulkPos.toNat) hc hin
    have htail := ih (s := s.afterInnerByte (f s.block.bulkPos.toNat)) hc
      ((storeBulkByte_bulkSt _ _).trans hx) (by rw [hpos]; simp only [State.afterInnerByte]; omega)
    rw [hpos, accept_afterInnerByte] at htail
    rw [List.range'_succ, List.map_cons, performAll_cons_of_next (exec_evBulkByte_inner hx hin),
      htail]
    exact congrArg s.accept (completeFrame_fillActive_storeBulkByte s.cfg f _ s.block _)

/-- The block with the bytes of a frame in the active half, from index 0 on. -/
def Block.receive (m : List Byte) (b : Block) : Block :=
  b.fillActive (fun j => m.getD j 0) (List.range m.length)

section
variable (m : List Byte) (b : Block)

@[simp] theorem receive_status : (b.receive m).status = b.status := setRx_status ..

@[simp] theorem receive_capturePending : (b.receive m).capturePending = b.capturePending :=
  setRx_capturePending ..

@[simp] theorem receive_snapshotLocked : (b.receive m).snapshotLocked = b.snapshotLocked :=
  setRx_snapshotLocked ..

@[simp] theorem receive_bulkSt : (b.receive m).bulkSt = b.bulkSt := setRx_bulkSt ..

@[simp] theorem receive_bulkAct : (b.receive m).bulkAct = b.bulkAct := setRx_bulkAct ..

@[simp] theorem receive_cap : (b.receive m).cap = b.cap := setRx_cap ..

@[simp] theorem rx_receive_other : (b.receive m).rx b.bulkAct.other = b.rx b.bulkAct.other := by
  simp [Block.receive, Block.fillActive]

end

/-- After a frame has come, the active half holds it. -/
theorem holds_receive {b : Block} (hwf : Memory.wf (b.rx b.bulkAct) = true) (m : List Byte) :
    Holds ((b.receive m).rx b.bulkAct) m := by
  intro j hj
  simp [Block.receive, Block.fillActive, read_writeAll hwf, hj]

/-- The `FRAME_LEN` bytes from a transfer start fill the active half and complete the frame. -/
theorem performAll_frame {m : List Byte} {s : State} (hc : s.cfg.wf)
    (hm : m.length = s.cfg.frameLen) (hx : s.block.bulkSt = .xfer) (hpos : s.block.bulkPos = 0) :
    performAll (m.map .evBulkByte) s = s.accept (completeFrame s.cfg (s.block.receive m)) := by
  have hzero : s.block.bulkPos.toNat = 0 := by rw [hpos]; rfl
  obtain ⟨n, hn⟩ : ∃ n, m.length = n + 1 := Nat.exists_eq_add_one.2 (by have := hc.1.1; omega)
  have hbytes : m.map Instr.evBulkByte =
      (List.range' 0 m.length).map fun j => .evBulkByte (m.getD j 0) :=
    List.ext_getElem (by simp) (by simp +contextual)
  have hrun := performAll_bytesToEnd (fun j => m.getD j 0) hc hx (n := n) (by omega)
  rwa [hzero, ← hn, ← hbytes, ← List.range_eq_range'] at hrun

/-- Against a half that holds the frame, the compare asks whether the other half holds it too. -/
theorem framesDiffer_eq_false_iff_holds {c : Config} {x y : List Host.Cell} {m : List Byte}
    (hm : m.length = c.frameLen) (hx : Holds x m) : framesDiffer c x y = false ↔ Holds y m := by
  rw [framesDiffer_eq_false_iff, ← hm]
  exact forall₂_congr fun j hj => by rw [hx j hj, eq_comm]

/-- The copy of a half that holds the frame holds it. -/
theorem holds_copyFrame {c : Config} {x cap : List Host.Cell} {m : List Byte}
    (hm : m.length = c.frameLen) (hcap : Memory.wf cap = true) (hx : Holds x m) :
    Holds (copyFrame c x cap) m := by
  intro j hj
  rw [read_copyFrame hcap, if_pos (hm ▸ hj), hx j hj]

theorem wf_rx {b : Block} (h0 : Memory.wf b.rx0 = true) (h1 : Memory.wf b.rx1 = true) (a : Half) :
    Memory.wf (b.rx a) = true := by
  cases a
  · exact h0
  · exact h1

section
variable {c : Config} {m : List Byte} {b : Block} (hm : m.length = c.frameLen)
  (hwf : Memory.wf (b.rx b.bulkAct) = true)
include hm hwf

/-- A received frame that the other half does not hold is copied where nothing is pending. -/
theorem completeFrame_receive_copies (hfree : b.capturePending = false)
    (hnew : ¬ Holds (b.rx b.bulkAct.other) m) :
    (completeFrame c (b.receive m)).capturePending = true ∧
      (completeFrame c (b.receive m)).cap = copyFrame c ((b.receive m).rx b.bulkAct) b.cap := by
  have hdiffer := mt (framesDiffer_eq_false_iff_holds hm (holds_receive hwf m)).1 hnew
  simpa using completeFrame_copies (c := c) (b := b.receive m) (by simpa using hfree)
    (by simpa using hdiffer)

/-- A received frame is not copied where one is pending or the other half holds the same. -/
theorem completeFrame_receive_keeps
    (h : b.capturePending = true ∨ Holds (b.rx b.bulkAct.other) m) :
    (completeFrame c (b.receive m)).capturePending = b.capturePending ∧
      (completeFrame c (b.receive m)).cap = b.cap := by
  have hsame := (framesDiffer_eq_false_iff_holds (y := b.rx b.bulkAct.other) hm
    (holds_receive hwf m)).2
  simpa using completeFrame_keeps (c := c) (b := b.receive m) (by simpa using h.imp_right hsame)

end

/-- Settles O30: the run of the frame is one completion of the received frame, which copies it or
not. -/
theorem wholeFrameTransfer : Obligations.WholeFrameTransfer := by
  unfold Obligations.WholeFrameTransfer
  intro m s hc hm hx hpos h0 h1 hcap
  have hwf := wf_rx h0 h1 s.block.bulkAct
  refine ⟨_, performAll_frame hc hm hx hpos, ?_, by simp, by simp [hx], by simp, by simp, by simp,
    by simp, fun hfree hnew => ?_, fun hold => ?_⟩
  · simpa using holds_receive hwf m
  · obtain ⟨hpending, hcopy⟩ := completeFrame_receive_copies hm hwf hfree hnew
    refine ⟨hpending, ?_⟩
    rw [noteStatusChange_cap, hcopy]
    exact holds_copyFrame hm hcap (holds_receive hwf m)
  · obtain ⟨hpending, hkeep⟩ := completeFrame_receive_keeps hm hwf hold
    exact ⟨hpending, fun j => congrArg (Memory.read · j) hkeep⟩

/-! ## A repeated frame (41_bulk_capture.md R147) -/

theorem performAll_append_of_next {is js : List Instr} {s t : State}
    (h : performAll is s = .next t) : performAll (is ++ js) s = performAll js t := by
  induction is generalizing s with
  | nil => cases h; rfl
  | cons i is ih =>
    rw [performAll] at h
    split at h
    · rename_i u hu
      rw [List.cons_append, performAll, hu]
      exact ih h
    · cases h
    · cases h

/-- The block may receive a frame from its first byte on. -/
structure AtFrameStart (m : List Byte) (s : State) : Prop where
  cfg_wf : s.cfg.wf
  inv : s.block.Inv s.cfg
  length : m.length = s.cfg.frameLen
  xfer : s.block.bulkSt = .xfer
  pos : s.block.bulkPos = 0

/-- Every run of operations keeps the parameters and the block's invariant. -/
theorem performAll_inv {is : List Instr} {s t : State} (hc : s.cfg.wf) (h : s.block.Inv s.cfg)
    (ht : performAll is s = .next t) : t.cfg = s.cfg ∧ t.block.Inv s.cfg := by
  refine performAll_allNext (P := fun u => u.cfg = s.cfg ∧ u.block.Inv s.cfg)
    (fun i _ u ⟨hcfg, hinv⟩ v hv => ⟨(performOp_around hv).1.trans hcfg, ?_⟩) ⟨rfl, h⟩ t ht
  rcases performOp_next hv with he | rfl
  · exact hcfg ▸ exec_inv (hcfg ▸ hc) (hcfg ▸ hinv) i v he
  · exact hinv

/-- A frame that meets a pending one, or that the other half holds, is received and not copied. -/
theorem performAll_frame_notCopied {m : List Byte} {s : State} (h : AtFrameStart m s)
    (hno : s.block.capturePending = true ∨ Holds (s.block.rx s.block.bulkAct.other) m) :
    ∃ t, performAll (m.map .evBulkByte) s = .next t ∧ AtFrameStart m t ∧
      Holds (t.block.rx t.block.bulkAct.other) m ∧
      t.block.capturePending = s.block.capturePending ∧
      t.block.snapshotLocked = s.block.snapshotLocked ∧ t.block.cap = s.block.cap := by
  obtain ⟨hc, hinv, hm, hx, hpos⟩ := h
  have hwf := wf_rx hinv.rx0_canonical hinv.rx1_canonical s.block.bulkAct
  have hrun := performAll_frame hc hm hx hpos
  obtain ⟨hpending, hkeep⟩ := completeFrame_receive_keeps hm hwf hno
  refine ⟨_, hrun, ⟨hc, (performAll_inv hc hinv hrun).2, hm, by simp [hx], by simp⟩, ?_, hpending,
    by simp, hkeep⟩
  simpa using holds_receive hwf m

/-- A frame that the other half holds is not copied, however often it comes. -/
theorem performAll_repeats_notCopied {m : List Byte} {s : State} (n : Nat) (h : AtFrameStart m s)
    (hother : Holds (s.block.rx s.block.bulkAct.other) m) :
    ∃ t, performAll (List.replicate n (m.map .evBulkByte)).flatten s = .next t ∧
      t.block.capturePending = s.block.capturePending ∧ t.block.cap = s.block.cap := by
  induction n generalizing s with
  | zero => exact ⟨s, rfl, rfl, rfl⟩
  | succ n ih =>
    obtain ⟨u, hu, hstart, hotherU, hpendingU, -, hcapU⟩ :=
      performAll_frame_notCopied h (.inr hother)
    obtain ⟨t, ht, hpending, hcap⟩ := ih hstart hotherU
    refine ⟨t, ?_, hpending.trans hpendingU, hcap.trans hcapU⟩
    rw [List.replicate_succ, List.flatten_cons, performAll_append_of_next hu, ht]

/-- Where a frame is pending and the snapshot is not locked, a parse takes the frame. -/
theorem exec_parse_enabled {s : State} (hpending : s.block.capturePending = true)
    (hlock : s.block.snapshotLocked = false) :
    exec .parse s = .next { s with
      block := { s.block with
        page := parsePages s.cfg s.block.cap s.block.page
        capturePending := false
        unreadSnapshot := true }
      report := some ⟨.accepted, none⟩ } :=
  (if_pos (by simp [hpending, hlock])).trans (accept_of_status_eq rfl)

/-- A parse leaves the receive path and the capture buffer as they are. -/
theorem exec_parse_atFrameStart {m : List Byte} {s : State} (h : AtFrameStart m s)
    (hpending : s.block.capturePending = true) (hlock : s.block.snapshotLocked = false) :
    ∃ t, exec .parse s = .next t ∧ AtFrameStart m t ∧ t.block.capturePending = false ∧
      t.block.cap = s.block.cap ∧
      t.block.rx t.block.bulkAct.other = s.block.rx s.block.bulkAct.other := by
  obtain ⟨hc, hinv, hm, hx, hpos⟩ := h
  exact ⟨_, exec_parse_enabled hpending hlock, ⟨hc, inv_parse hc hinv, hm, hx, hpos⟩, rfl, rfl,
    rx_congr rfl rfl _⟩

/-- Settles O31: the frame that met the pending one stays in the half that every repetition is
compared with, so none is copied. -/
theorem repeatedFrameIsNeverCopied : Obligations.RepeatedFrameIsNeverCopied := by
  unfold Obligations.RepeatedFrameIsNeverCopied
  intro m n s hinv hm hx hpos hpending hlock
  have hstart : AtFrameStart m s := ⟨hinv.cfg_wf, hinv.block, hm, hx, hpos⟩
  obtain ⟨u, hu, hstartU, hotherU, hpendingU, hlockU, hcapU⟩ :=
    performAll_frame_notCopied hstart (.inl hpending)
  obtain ⟨v, hv, hstartV, hpendingV, hcapV, hrxV⟩ :=
    exec_parse_atFrameStart hstartU (hpendingU.trans hpending) (hlockU.trans hlock)
  obtain ⟨t, ht, hpendingT, hcapT⟩ := performAll_repeats_notCopied n hstartV (hrxV ▸ hotherU)
  refine ⟨t, ?_, hpendingT.trans hpendingV, fun j => ?_⟩
  · rw [List.append_assoc, performAll_append_of_next hu, List.singleton_append,
      performAll_cons_of_next hv, ht]
  · rw [hcapT, hcapV, hcapU]

end Sys2Proof.Machine
end

section
/-! PROOFS. The register capture path (42_register_capture.md R171 to R177): what an accepted completion
does to the counter and the two fault flags, runs of mismatching completions, and the watchdog. -/

namespace Sys2Proof.Machine

/-! ## The counter (42_register_capture.md R173) -/

theorem nextMismatch_of_eq {c : Config} {btn req : Byte} {n : BitVec 3} (h : btn = req) :
    nextMismatch c btn req n = 0 :=
  if_pos h

/-- Every limit a model must accept fits the three bits of the counter. -/
theorem toNat_nextMismatch_of_ne {c : Config} (hc : c.wf) {btn req : Byte} {n : BitVec 3}
    (h : btn ≠ req) :
    (nextMismatch c btn req n).toNat = min (n.toNat + 1) c.mismatchLimit := by
  have hlimit : c.mismatchLimit ≤ 7 := hc.2.2.2
  rw [nextMismatch, if_neg h, BitVec.toNat_ofNat, Nat.mod_eq_of_lt (by omega)]

theorem mmCnt_mem_opWrites {o : Op} (h : .mmCnt ∈ opWrites o) :
    o = .evRegDone ∨ o = .evRegWdtExpire ∨ o = .evPoll := by
  cases o <;> simp_all [opWrites]

/-- The last lines of a poll change the counter only where they stop capture. -/
theorem startOrStop_stops_of_mmCnt_ne {b : Block} (h : (startOrStop b).mmCnt ≠ b.mmCnt) :
    (startOrStop b).capturing = false := by
  unfold startOrStop at h ⊢
  split_ifs at h ⊢
  · exact absurd rfl h
  · rfl
  · exact absurd rfl h

/-- An operation that changes the counter is a completion, a watchdog expiry, or a poll that leaves
capture off. -/
theorem exec_changes_mmCnt {i : Instr} {s t : State} (h : exec i s = .next t)
    (hne : t.block.mmCnt ≠ s.block.mmCnt) :
    i.op = .evRegDone ∨ i.op = .evRegWdtExpire ∨
      (i.op = .evPoll ∧ t.block.capturing = false) := by
  have hw : .mmCnt ∈ opWrites i.op := mem_opWrites_of_changed h (Ne.symm hne)
  refine (mmCnt_mem_opWrites hw).imp_right (Or.imp_right fun hpoll => ⟨hpoll, ?_⟩)
  obtain ⟨lv, rfl⟩ := op_eq_evPoll.1 hpoll
  cases h
  exact startOrStop_stops_of_mmCnt_ne hne

/-! ## The fault flags of a completion (42_register_capture.md R174) -/

section
variable {c : Config} {w : Word} {b : Block}

/-- A requested press that no button shows sets `PF` at the limit and leaves `MP`. -/
theorem regDone_sets_pf (hlimit : (regDone c w b).mmCnt.toNat = c.mismatchLimit)
    (hnone : buttonByte w = 0#8) (hreq : b.btnReq ≠ 0#8) :
    (regDone c w b).flag .pf = true ∧ (regDone c w b).flag .mp = b.flag .mp := by
  rw [regDone_mmCnt, hnone] at hlimit
  simp [regDone_flag, hnone, hlimit, hreq, hreq.symm]

/-- An unrequested button sets `MP` at the limit and leaves `PF`: some button is pressed. -/
theorem regDone_sets_mp (hne : buttonByte w ≠ b.btnReq)
    (hlimit : (regDone c w b).mmCnt.toNat = c.mismatchLimit)
    (hextra : buttonByte w &&& ~~~b.btnReq ≠ 0#8) :
    (regDone c w b).flag .mp = true ∧ (regDone c w b).flag .pf = b.flag .pf := by
  have hpressed : buttonByte w ≠ 0#8 := fun h => hextra (by rw [h, BitVec.zero_and])
  rw [regDone_mmCnt] at hlimit
  simp [regDone_flag, hne, hlimit, hpressed, hextra]

/-- An equal byte, a count below the limit, and a part of the requested buttons set neither flag. -/
theorem regDone_keeps_faultFlags
    (h : buttonByte w = b.btnReq ∨ (regDone c w b).mmCnt.toNat ≠ c.mismatchLimit ∨
      (buttonByte w ≠ 0#8 ∧ buttonByte w &&& ~~~b.btnReq = 0#8)) :
    (regDone c w b).flag .mp = b.flag .mp ∧ (regDone c w b).flag .pf = b.flag .pf := by
  rw [regDone_mmCnt] at h
  rcases h with heq | hbelow | ⟨hpressed, hpart⟩
  · simp [regDone_flag, heq]
  · simp [regDone_flag, hbelow]
  · simp [regDone_flag, hpressed, hpart]

end

/-! ## One completion (42_register_capture.md R171) -/

theorem exec_evRegDone_capturing {w : Word} {s : State} (h : s.block.capturing = true) :
    exec (.evRegDone w) s = s.accept (regDone s.cfg w s.block) :=
  if_pos h

/-- Settles O32: the row of the opcode map, the drop, the accepted completion with the frame of the
operation, and the three operations whose frames hold the counter. -/
theorem registerDoneRule : Obligations.RegisterDoneRule := by
  unfold Obligations.RegisterDoneRule
  refine ⟨rowEncodes .evRegDone, fun w s hoff => if_neg (Bool.eq_false_iff.1 hoff),
    fun w s hc hcap => ?_, fun i s t h hne => exec_changes_mmCnt h hne⟩
  have hexec := exec_evRegDone_capturing (w := w) hcap
  exact ⟨_, hexec, rfl, regDone_btn s.cfg w s.block, regDone_flag s.cfg w s.block .regLive, rfl,
    nextMismatch_of_eq, toNat_nextMismatch_of_ne hc, fun _ => regDone_sets_pf, regDone_sets_mp,
    regDone_keeps_faultFlags, rfl, exec_framed (.evRegDone w) s _ hexec⟩

/-- A mismatching completion that brings the count to the limit, or finds it there, sets the flag its
classification gives. -/
theorem exec_evRegDone_atLimit {w : Word} {s : State} (hc : s.cfg.wf)
    (hcap : s.block.capturing = true) (hne : buttonByte w ≠ s.block.btnReq)
    (hcount : s.cfg.mismatchLimit ≤ s.block.mmCnt.toNat + 1) :
    ∃ t, exec (.evRegDone w) s = .next t ∧ t.block.mmCnt.toNat = s.cfg.mismatchLimit ∧
      (buttonByte w = 0x00 → s.block.btnReq ≠ 0x00 → t.block.flag .pf = true) ∧
      (buttonByte w &&& ~~~s.block.btnReq ≠ 0x00 → t.block.flag .mp = true) := by
  have hlimit : (regDone s.cfg w s.block).mmCnt.toNat = s.cfg.mismatchLimit := by
    rw [regDone_mmCnt, toNat_nextMismatch_of_ne hc hne, min_eq_right hcount]
  exact ⟨_, exec_evRegDone_capturing hcap, hlimit,
    fun hnone hreq => (regDone_sets_pf hlimit hnone hreq).1,
    fun hextra => (regDone_sets_mp hne hlimit hextra).1⟩

/-! ## A run of mismatches (42_register_capture.md R177) -/

/-- How a state stands `n` mismatching completions after a capturing state with a cleared counter. -/
structure AfterMismatches (s : State) (n : Nat) (t : State) : Prop where
  cfg : t.cfg = s.cfg
  capturing : t.block.capturing = true
  btnReq : t.block.btnReq = s.block.btnReq
  mmCnt : t.block.mmCnt.toNat = min n s.cfg.mismatchLimit
  faultFlags : n < s.cfg.mismatchLimit →
    t.block.flag .mp = s.block.flag .mp ∧ t.block.flag .pf = s.block.flag .pf

theorem afterMismatches_zero {s : State} (hcap : s.block.capturing = true)
    (hzero : s.block.mmCnt = 0) : AfterMismatches s 0 s :=
  ⟨rfl, hcap, rfl, by simp [hzero], fun _ => ⟨rfl, rfl⟩⟩

/-- One more mismatch counts one more up to the limit, and below it sets no flag. -/
theorem exec_evRegDone_afterMismatches {s t : State} {n : Nat} {w : Word} (hc : s.cfg.wf)
    (h : AfterMismatches s n t) (hne : buttonByte w ≠ s.block.btnReq) :
    ∃ u, exec (.evRegDone w) t = .next u ∧ AfterMismatches s (n + 1) u := by
  obtain ⟨hcfg, hcap, hreq, hcount, hflags⟩ := h
  have hnext : (regDone t.cfg w t.block).mmCnt.toNat = min (n + 1) s.cfg.mismatchLimit := by
    rw [regDone_mmCnt, toNat_nextMismatch_of_ne (hcfg ▸ hc) (hreq ▸ hne), hcount, hcfg]
    omega
  refine ⟨_, exec_evRegDone_capturing hcap, hcfg, hcap, hreq, hnext, fun hlt => ?_⟩
  obtain ⟨hmp, hpf⟩ := hflags (by omega)
  obtain ⟨hmpNext, hpfNext⟩ := regDone_keeps_faultFlags (c := t.cfg) (w := w) (b := t.block)
    (.inr (.inl (by rw [hnext, hcfg]; omega)))
  exact ⟨hmpNext.trans hmp, hpfNext.trans hpf⟩

/-- A run of mismatching completions counts its length. -/
theorem performAll_mismatches {s t : State} {n : Nat} {ws : List Word} (hc : s.cfg.wf)
    (h : AfterMismatches s n t) (hne : ∀ w ∈ ws, buttonByte w ≠ s.block.btnReq) :
    ∃ u, performAll (ws.map .evRegDone) t = .next u ∧ AfterMismatches s (n + ws.length) u := by
  induction ws generalizing n t with
  | nil => exact ⟨t, rfl, h⟩
  | cons w ws ih =>
    obtain ⟨hw, htail⟩ := List.forall_mem_cons.1 hne
    obtain ⟨v, hv, hafter⟩ := exec_evRegDone_afterMismatches hc h hw
    obtain ⟨u, hu, hrun⟩ := ih hafter htail
    rw [Nat.add_assoc, Nat.add_comm 1] at hrun
    exact ⟨u, (performAll_cons_of_next hv).trans hu, hrun⟩

/-- Settles O34: the run counts its length and sets no flag below the limit; one more mismatch that
reaches the limit classifies. -/
theorem faultNeedsConsecutiveMismatches : Obligations.FaultNeedsConsecutiveMismatches := by
  unfold Obligations.FaultNeedsConsecutiveMismatches
  intro ws s hc hcap hzero hne
  obtain ⟨t, ht, hafter⟩ := performAll_mismatches hc (afterMismatches_zero hcap hzero) hne
  rw [Nat.zero_add] at hafter
  refine ⟨t, ht, hafter.mmCnt, hafter.faultFlags, fun w hreach hw => ?_⟩
  obtain ⟨hcfg, hcapT, hreq, hcount, -⟩ := hafter
  obtain ⟨u, hu, -, hpf, hmp⟩ := exec_evRegDone_atLimit (w := w) (hcfg ▸ hc) hcapT (hreq ▸ hw)
    (by rw [hcfg, hcount]; omega)
  rw [hreq] at hpf hmp
  exact ⟨u, hu, hpf, hmp⟩

/-- Settles O35: a status read clears the flags and leaves the counter at the limit, where the next
mismatch classifies again. -/
theorem statusReadDoesNotMaskAFault : Obligations.StatusReadDoesNotMaskAFault := by
  unfold Obligations.StatusReadDoesNotMaskAFault
  intro w s hc hcap hlimit hne
  obtain ⟨r, hr⟩ : ∃ r, exec .hostReadStatus s = .next r := ⟨_, rfl⟩
  have hkeeps := exec_framed .hostReadStatus s r hr
  have hcfg : r.cfg = s.cfg := (exec_around hr).1
  have hcapR : s.block.capturing = r.block.capturing := hkeeps .capturing (by decide)
  have hreq : s.block.btnReq = r.block.btnReq := hkeeps .cmdBtnReq (by decide)
  have hcount : s.block.mmCnt = r.block.mmCnt := hkeeps .mmCnt (by decide)
  obtain ⟨t, ht, hcountT, hpf, hmp⟩ := exec_evRegDone_atLimit (w := w) (hcfg ▸ hc)
    (hcapR ▸ hcap) (hreq ▸ hne) (by rw [hcfg, ← hcount]; omega)
  rw [← hreq] at hpf hmp
  exact ⟨r, t, hr, hcount.symm, exec_hostReadStatus_faultFlag (.inl rfl) hr,
    exec_hostReadStatus_faultFlag (.inr rfl) hr, ht,
    BitVec.eq_of_toNat_eq (by rw [hcountT, hcfg, hlimit]), hpf, hmp⟩

/-! ## The watchdog (42_register_capture.md R175) -/

/-- An armed watchdog clears both button bytes, the liveness flag and the counter. -/
theorem exec_evRegWdtExpire_armed {s : State} (h : s.block.regWdtArmed = true) :
    exec .evRegWdtExpire s = s.accept { s.block with
      regWdtArmed := false
      status := setButtonField 0x00 (setStatusFlag .regLive false s.block.status)
      cmd := setButtonField 0x00 s.block.cmd
      mmCnt := 0 } :=
  if_pos h

/-- Settles O33: the row of the opcode map, the fail-safe clear with the frame of the operation, and no
transition where the watchdog is not armed. -/
theorem registerWatchdogRule : Obligations.RegisterWatchdogRule := by
  unfold Obligations.RegisterWatchdogRule
  refine ⟨rowEncodes .evRegWdtExpire, fun s => ⟨fun harmed => ?_, fun hidle => ?_⟩⟩
  · have hexec := exec_evRegWdtExpire_armed harmed
    refine ⟨_, hexec, rfl, rfl, ?_, ?_, ?_, rfl, rfl, exec_framed .evRegWdtExpire s _ hexec⟩
    · simp [Block.flag]
    · exact buttonField_setButtonField _ _
    · exact buttonField_setButtonField _ _
  · exact if_neg (Bool.eq_false_iff.1 hidle)

end Sys2Proof.Machine
end

section
/-! PROOFS. The detector (43_detector.md R191 to R196): what a poll's sample writes, which of its three
ends each block takes, and the expiry of the standby timer. -/

namespace Sys2Proof.Machine

/-! ## The three ends of a poll (43_detector.md R191, R194, R195) -/

section
variable {b : Block}

theorem startOrStop_starts (hlit : b.lit = true) (hoff : b.capturing = false) :
    startOrStop b = captureStart b := by
  simp [startOrStop, hlit, hoff]

theorem startOrStop_stops (hdark : b.lit = false) (hon : b.capturing = true) :
    startOrStop b = captureStop b := by
  simp [startOrStop, hdark, hon]

theorem startOrStop_keeps (h : b.lit = b.capturing) : startOrStop b = b := by
  simp [startOrStop, h]

end

/-! ## The elements the ends leave to the sample -/

@[simp] theorem startOrStop_lastLvl (b : Block) : (startOrStop b).lastLvl = b.lastLvl := by
  rcases startOrStop_cases b with e | e | e <;> simp [e]

@[simp] theorem startOrStop_stbyArmed (b : Block) : (startOrStop b).stbyArmed = b.stbyArmed := by
  rcases startOrStop_cases b with e | e | e <;> simp [e]

/-- Of the flags, the ends of a poll write the two liveness flags alone. -/
theorem startOrStop_flag (b : Block) {f : StatusFlag} (hbulk : f ≠ .bulkLive) (hreg : f ≠ .regLive) :
    (startOrStop b).flag f = b.flag f := by
  rcases startOrStop_cases b with e | e | e <;> simp [e, hbulk, hreg]

/-- A block agrees on every listed element that its frame does not name. -/
theorem agree_of_keepsOutside {ws vs : List Element} {x y : Block} (h : x.KeepsOutside ws y)
    (hdisjoint : ∀ e ∈ vs, e ∉ ws) : ∀ e ∈ vs, x.agree y e :=
  fun e he => h e (hdisjoint e he)

/-- What an end of a poll writes is all that the poll adds to its sample and the note of R35. -/
theorem poll_keepsOutside {ws : List Element} {lv : BitVec 4} {b x : Block}
    (h : (sampleLevels lv b).KeepsOutside ws x) :
    b.KeepsOutside ([.statusFlag .pwr, .statusFlag .red, .statusFlag .white, .statusFlag .stby,
      .stbyArmed, .lastLvl, .unreadStatus] ++ ws) (noteStatusChange b x) :=
  keepsOutside_trans
    (keepsOutside_mono (sampleLevels_keepsOutside lv b)
      (List.subset_append_of_subset_left _ (by decide)))
    (keepsOutside_trans (keepsOutside_mono h (List.subset_append_right _ _))
      (keepsOutside_mono (noteStatusChange_keepsOutside b x)
        (List.subset_append_of_subset_left _ (by decide))))

/-! ## The poll (43_detector.md R191) -/

/-- The block a poll leaves. -/
def Block.polled (lv : BitVec 4) (b : Block) : Block :=
  noteStatusChange b (startOrStop (sampleLevels lv b))

theorem exec_evPoll (lv : BitVec 4) (s : State) :
    exec (.evPoll lv) s =
      .next { s with block := s.block.polled lv, report := some ⟨.accepted, none⟩ } :=
  rfl

section
variable {lv : BitVec 4} {b : Block}

@[simp] theorem polled_lastLvl : (b.polled lv).lastLvl = lv := by simp [Block.polled]

@[simp] theorem polled_stbyArmed :
    (b.polled lv).stbyArmed = (b.stbyArmed || standbyRises b.lastLvl lv) := by simp [Block.polled]

/-- The flags that stand for levels show the sample, whichever end follows it. -/
theorem polled_flag {f : StatusFlag} (hbulk : f ≠ .bulkLive) (hreg : f ≠ .regLive) :
    (b.polled lv).flag f = (sampleLevels lv b).flag f :=
  startOrStop_flag _ hbulk hreg

/-- The displays that decide between the ends are lit after the poll as they were sampled. -/
theorem polled_lit : (b.polled lv).lit = (sampleLevels lv b).lit :=
  congrArg₂ or (polled_flag (by decide) (by decide)) (polled_flag (by decide) (by decide))

theorem polled_starts (hlit : (b.polled lv).lit = true) (hoff : b.capturing = false) :
    b.polled lv = noteStatusChange b (captureStart (sampleLevels lv b)) :=
  congrArg (noteStatusChange b) (startOrStop_starts (polled_lit.symm.trans hlit) hoff)

theorem polled_stops (hdark : (b.polled lv).lit = false) (hon : b.capturing = true) :
    b.polled lv = noteStatusChange b (captureStop (sampleLevels lv b)) :=
  congrArg (noteStatusChange b) (startOrStop_stops (polled_lit.symm.trans hdark) hon)

theorem polled_keeps (h : (b.polled lv).lit = b.capturing) :
    b.polled lv = noteStatusChange b (sampleLevels lv b) :=
  congrArg (noteStatusChange b) (startOrStop_keeps (polled_lit.symm.trans h))

end

/-- Settles O36: the row of the opcode map, the flags of the sample, the three ends of the poll, and
the frame of the operation. -/
theorem pollRule : Obligations.PollRule := by
  unfold Obligations.PollRule
  refine ⟨rowEncodes .evPoll, fun lv s => ⟨_, exec_evPoll lv s, rfl, polled_lastLvl, ?pwr, ?red,
    ?white, ?stby, polled_stbyArmed, fun hlit hoff => ?starts, fun hdark hon => ?stops,
    fun hsame => ?keeps, exec_event_notesStatus (i := .evPoll lv) rfl s _ (exec_evPoll lv s),
    agree_of_keepsOutside (exec_evPoll_framed lv s _ (exec_evPoll lv s)) (by decide)⟩⟩
  case pwr | red | white | stby =>
    exact (polled_flag (by decide) (by decide)).trans (sampleLevels_flag lv s.block _)
  case starts =>
    rw [polled_starts hlit hoff]
    exact ⟨rfl, rfl, rfl, rfl,
      agree_of_keepsOutside (poll_keepsOutside (captureStart_keepsOutside _)) (by decide)⟩
  case stops =>
    rw [polled_stops hdark hon]
    simp
  case keeps =>
    rw [polled_keeps hsame]
    exact agree_of_keepsOutside (poll_keepsOutside (keepsOutside_refl [] _)) (by decide)

/-- A sample of the levels the last poll saw has no transition and no edge to latch. -/
theorem sampleLevels_same (b : Block) : sampleLevels b.lastLvl b = b := by
  simp [sampleLevels, latchLevels, toggleStatusFlag, standbyRises]

/-- Settles O37: the sample changes nothing, and under the invariant capture runs exactly while a
display is lit, so that neither end writes. -/
theorem pollOfTheSameLevelsChangesNothing : Obligations.PollOfTheSameLevelsChangesNothing := by
  unfold Obligations.PollOfTheSameLevelsChangesNothing
  intro s hinv
  have hpoll : startOrStop (sampleLevels s.block.lastLvl s.block) = s.block := by
    rw [sampleLevels_same, startOrStop_keeps hinv.block.capturing_iff_lit.symm]
  exact (congrArg s.accept hpoll).trans (accept_of_status_eq rfl)

/-! ## The standby timer (43_detector.md R196) -/

/-- An armed timer declares standby inactive; the end notes whether `STBY` fell. -/
theorem exec_evStbyExpire_armed {s : State} (h : s.block.stbyArmed = true) :
    exec .evStbyExpire s = s.accept { s.block with
      stbyArmed := false, status := setStatusFlag .stby false s.block.status } :=
  if_pos h

/-- Settles O38: the row of the opcode map, the expiry with the frame of the operation, and no
transition where the timer is not armed. -/
theorem standbyExpireRule : Obligations.StandbyExpireRule := by
  unfold Obligations.StandbyExpireRule
  refine ⟨rowEncodes .evStbyExpire, fun s => ⟨fun harmed => ?_, fun hidle => ?_⟩⟩
  · have hexec := exec_evStbyExpire_armed harmed
    refine ⟨_, hexec, rfl, rfl, ?_, ?_, exec_framed .evStbyExpire s _ hexec⟩
    · simp [Block.flag]
    · simp [Block.flag, setStatusFlag_ne_iff]
  · exact if_neg (Bool.eq_false_iff.1 hidle)

end Sys2Proof.Machine
end

section
/-! PROOFS. The frame parser (44_parser.md R210 to R214): what each page word reads after a parse, that
it comes from the frame alone, and where a given frame byte stands. -/

namespace Sys2Proof.Machine

/-! ## The two bytes of a page word (44_parser.md R211) -/

@[simp] theorem lowByte_pairWord (lo hi : Byte) : lowByte (pairWord lo hi) = lo := by
  apply BitVec.eq_of_getLsbD_eq
  intro k hk
  have hword : k < 16 := by omega
  simp [lowByte, getLsbD_pairWord _ _ hword, hk]

@[simp] theorem highByte_pairWord (lo hi : Byte) : highByte (pairWord lo hi) = hi := by
  apply BitVec.eq_of_getLsbD_eq
  intro k hk
  have hword : 8 + k < 16 := by omega
  simp [highByte, getLsbD_pairWord _ _ hword, hk]

section
variable {c : Config} {cap cap' : List Host.Cell}

theorem byteAt_of_lt {j : Nat} (h : j < c.frameLen) : byteAt c cap j = Memory.read cap j :=
  if_pos h

/-- Past the frame end the stream does not read the buffer. -/
theorem byteAt_congr (h : ∀ j, j < c.frameLen → Memory.read cap j = Memory.read cap' j) (j : Nat) :
    byteAt c cap j = byteAt c cap' j :=
  ite_congr rfl (h j) fun _ => rfl

theorem pageWord_congr (h : ∀ j, j < c.frameLen → Memory.read cap j = Memory.read cap' j)
    (p i : Nat) : pageWord c cap p i = pageWord c cap' p i := by
  simp only [pageWord, byteAt_congr h]

/-- Stream word `k` is the word that its quotient and remainder by the page size name
(44_parser.md R214). -/
theorem pageWord_div_mod (k : Nat) :
    pageWord c cap (k / c.pageWords + 1) (k % c.pageWords) =
      pairWord (byteAt c cap (2 * k)) (byteAt c cap (2 * k + 1)) := by
  rw [pageWord, Nat.add_sub_cancel, Nat.div_add_mod']

/-! ## The index of a page word (20_memory.md R60) -/

variable {p i : Nat}

theorem pageKey_mem_pageKeys (hp : 1 ≤ p) (hp5 : p ≤ 5) (hi : i < c.pageWords) :
    pageKey p i ∈ pageKeys c := by
  have hpred : p - 1 < Config.pages := Nat.lt_of_lt_of_le (Nat.pred_lt_of_lt hp) hp5
  exact mem_pageKeys.2 ⟨p - 1, hpred, i, hi, by rw [Nat.sub_add_cancel hp]⟩

/-- The index gives its page and its position back. -/
theorem pageWordOfKey_pageKey (hi : i < 256) :
    pageWordOfKey c cap (pageKey p i) = pageWord c cap p i := by
  have hpage : (256 * p + i) / 256 = p := by omega
  have hindex : (256 * p + i) % 256 = i := by omega
  rw [pageWordOfKey, pageKey, hpage, hindex]

end

/-! ## The pages after a parse (44_parser.md R210) -/

/-- Every page word is the pair of frame bytes that R211 gives it, whatever it was before. -/
theorem exec_parse_pageWordAt {s t : State} (hc : s.cfg.wf)
    (hpage : Memory.wf s.block.page = true) (h : exec .parse s = .next t) {p i : Nat} (hp : 1 ≤ p)
    (hp5 : p ≤ 5) (hi : i < s.cfg.pageWords) :
    t.block.pageWordAt p i = pageWord s.cfg s.block.cap p i := by
  obtain ⟨-, ⟨-, hwords⟩, -⟩ := hc
  obtain ⟨-, -, e⟩ := exec_parse_next h
  have hmem := pageKey_mem_pageKeys hp hp5 hi
  rw [Block.pageWordAt, e, parsePages, read_writeAll hpage, if_pos hmem,
    pageWordOfKey_pageKey (hi.trans_le hwords)]

theorem exec_parse_notEnabled {s : State}
    (h : s.block.capturePending = false ∨ s.block.snapshotLocked = true) :
    exec .parse s = .refused (.notEnabled .parse) := by
  refine if_neg ?_
  rcases h with hnone | hlocked
  · simp [hnone]
  · simp [hlocked]

/-- Settles O40: the row of the opcode map, no transition with nothing pending or under the lock, and
the rewrite of the pages with the frame of the operation. -/
theorem parseRule : Obligations.ParseRule := by
  unfold Obligations.ParseRule
  refine ⟨rowEncodes .parse, fun _ => exec_parse_notEnabled, fun s hc hpage hpending hlock => ?_⟩
  have hexec := exec_parse_enabled hpending hlock
  refine ⟨_, hexec, rfl, fun _ _ => exec_parse_pageWordAt hc hpage hexec, fun k hk => ?_, rfl, rfl,
    exec_framed .parse s _ hexec⟩
  have hout : k ∉ pageKeys s.cfg := fun hmem =>
    Bool.eq_false_iff.1 hk ((mem_pageKeys_iff_ok hc.2.1.2).1 hmem)
  exact read_exec_parse_page hexec hout

/-- Settles O41: each page word is read from the frame alone, and the two frames read alike. -/
theorem parseDependsOnTheFrameAlone : Obligations.ParseDependsOnTheFrameAlone := by
  unfold Obligations.ParseDependsOnTheFrameAlone
  intro s s' t t' hc hcfg hpage hpage' hcap h h' p i hp hp5 hi
  calc t.block.pageWordAt p i
      = pageWord s.cfg s.block.cap p i := exec_parse_pageWordAt hc hpage h hp hp5 hi
    _ = pageWord s.cfg s'.block.cap p i := pageWord_congr hcap p i
    _ = pageWord s'.cfg s'.block.cap p i := by rw [hcfg]
    _ = t'.block.pageWordAt p i :=
      (exec_parse_pageWordAt (hcfg ▸ hc) hpage' h' hp hp5 (hcfg ▸ hi)).symm

/-- Stream word `k` stands in page `k / PAGE_WORDS + 1` at `k mod PAGE_WORDS` where the pages have room
for it (44_parser.md R214). -/
theorem exec_parse_streamWord {s t : State} (hc : s.cfg.wf) (hpage : Memory.wf s.block.page = true)
    (h : exec .parse s = .next t) {k : Nat} (hk : k < 5 * s.cfg.pageWords) :
    t.block.pageWordAt (k / s.cfg.pageWords + 1) (k % s.cfg.pageWords) =
      pairWord (byteAt s.cfg s.block.cap (2 * k)) (byteAt s.cfg s.block.cap (2 * k + 1)) := by
  have hpos : 0 < s.cfg.pageWords := hc.2.1.1
  have hroom : k / s.cfg.pageWords < 5 := (Nat.div_lt_iff_lt_mul hpos).2 hk
  rw [exec_parse_pageWordAt hc hpage h (Nat.succ_pos _) hroom (Nat.mod_lt k hpos),
    pageWord_div_mod]

/-- Settles O42: byte `j` is the low or the high byte of stream word `j / 2`. -/
theorem frameByteIsAtItsPageWord : Obligations.FrameByteIsAtItsPageWord := by
  unfold Obligations.FrameByteIsAtItsPageWord
  intro s t hc hpage h j hj hroom k w
  have hw : w = pairWord (byteAt s.cfg s.block.cap (2 * k))
      (byteAt s.cfg s.block.cap (2 * k + 1)) :=
    exec_parse_streamWord hc hpage h (by omega)
  refine ⟨fun heven => ?_, fun hodd => ?_⟩
  · have hjk : 2 * k = j := by omega
    calc w.extractLsb' 0 8
        = byteAt s.cfg s.block.cap (2 * k) := by rw [hw]; exact lowByte_pairWord _ _
      _ = Memory.read s.block.cap j := by rw [hjk, byteAt_of_lt hj]
  · have hjk : 2 * k + 1 = j := by omega
    calc w.extractLsb' 8 8
        = byteAt s.cfg s.block.cap (2 * k + 1) := by rw [hw]; exact highByte_pairWord _ _
      _ = Memory.read s.block.cap j := by rw [hjk, byteAt_of_lt hj]

end Sys2Proof.Machine
end

section
/-! PROOFS. The host's side (45_host.md R230 to R243): what the words of each port can write, the
check of a received frame, and the meanings of the eight operations on the register store. -/

namespace Sys2Proof.Machine

/-! ## The two ports (45_host.md R230, 60_exceptions.md R270, 20_memory.md R72) -/

/-- The elements that the operations of the host port write, all together. -/
def hostWrites : List Element :=
  [.crc, .statusFlag .mp, .statusFlag .pf, .unreadStatus, .cmdBtnReq, .cmdHigh, .snapshotLocked,
    .unreadSnapshot]

theorem opWrites_subset_hostWrites {o : Op} (ho : o.port = .host) : opWrites o ⊆ hostWrites := by
  revert ho; cases o <;> decide

/-- No event writes the CRC, the lock or the high byte of `CMD`. -/
theorem not_mem_opWrites_event {o : Op} (ho : o.port = .event) :
    .crc ∉ opWrites o ∧ .snapshotLocked ∉ opWrites o ∧ .cmdHigh ∉ opWrites o := by
  revert ho; cases o <;> decide

theorem cmdBtnReq_mem_opWrites_event {o : Op} (ho : o.port = .event)
    (h : .cmdBtnReq ∈ opWrites o) : o = .evRegWdtExpire ∨ o = .evPoll := by
  revert ho h; cases o <;> decide

theorem op_eq_evRegWdtExpire {i : Instr} : i.op = .evRegWdtExpire ↔ i = .evRegWdtExpire := by
  cases i <;> simp [Instr.op]

/-- A poll leaves `CMD.BTN_REQ`, or stops capture and clears it (43_detector.md R195). -/
theorem polled_btnReq (lv : BitVec 4) (b : Block) :
    (b.polled lv).btnReq = b.btnReq ∨ (b.polled lv).btnReq = 0x00 := by
  rw [Block.polled, noteStatusChange_btnReq]
  rcases startOrStop_cases (sampleLevels lv b) with e | e | e <;> simp [e]

/-- A register watchdog that has a transition clears `CMD.BTN_REQ` (42_register_capture.md R175). -/
theorem exec_evRegWdtExpire_btnReq {s t : State} (h : exec .evRegWdtExpire s = .next t) :
    t.block.btnReq = 0x00 := by
  by_cases harmed : s.block.regWdtArmed = true
  · cases (exec_evRegWdtExpire_armed harmed).symm.trans h
    exact buttonField_setButtonField _ _
  · have hexec : exec .evRegWdtExpire s = notEnabled .evRegWdtExpire := if_neg harmed
    cases hexec.symm.trans h

/-- The two events that write `CMD.BTN_REQ` can only clear it. -/
theorem exec_event_btnReq {i : Instr} {s t : State} (hi : i.op.port = .event)
    (h : exec i s = .next t) : t.block.btnReq = s.block.btnReq ∨ t.block.btnReq = 0x00 := by
  by_cases hsame : s.block.btnReq = t.block.btnReq
  · exact .inl hsame.symm
  · have hw : .cmdBtnReq ∈ opWrites i.op := mem_opWrites_of_changed h hsame
    rcases cmdBtnReq_mem_opWrites_event hi hw with ho | ho
    · cases op_eq_evRegWdtExpire.1 ho
      exact .inr (exec_evRegWdtExpire_btnReq h)
    · obtain ⟨lv, rfl⟩ := op_eq_evPoll.1 ho
      cases (exec_evPoll lv s).symm.trans h
      exact polled_btnReq lv s.block

/-- No host operation sets `MP` or `PF`: it takes an `EV_REG_DONE`. -/
theorem exec_host_faultFlag {i : Instr} {s t : State} {f : StatusFlag} (hf : f = .mp ∨ f = .pf)
    (hi : i.op.port = .host) (h : exec i s = .next t) (ht : t.block.flag f = true) :
    s.block.flag f = true := by
  by_contra hs
  obtain ⟨w, rfl⟩ := exec_sets_faultFlag hf h (Bool.eq_false_iff.2 hs) ht
  cases hi

/-- A step with a word at the head of the queue leaves the block or runs an operation of the word's
port. -/
theorem step_word_next {s t : State} {p : Port} {w : OpWord} {rest : List Input}
    (hq : s.inputs = .op p w :: rest) (h : step s = .next t) :
    t.block = s.block ∨
      ∃ i, i.op.port = p ∧ exec i { s with inputs := rest } = .next t := by
  rcases step_next h with ⟨-, hb, -⟩ | ⟨-, -, rest', hreset⟩ | ⟨-, p', w', rest', i, hq', hd, he⟩
  · exact .inl hb
  · cases hq.symm.trans hreset
  · cases hq.symm.trans hq'
    exact .inr ⟨i, port_of_decode_ok hd, he⟩

/-- Settles O14: a word leaves the block or runs an operation of its port, and that operation's frame
stays in what the port may write; `MP` and `PF` from the host and `CMD.BTN_REQ` from an event are only
cleared. -/
theorem portsKeepToTheirOwnState : Obligations.PortsKeepToTheirOwnState := by
  unfold Obligations.PortsKeepToTheirOwnState
  refine ⟨fun s t w rest hq _ h => ?_, fun s t w rest hq _ h => ?_⟩
  · rcases step_word_next hq h with hb | ⟨i, hi, he⟩
    · rw [hb]
      exact ⟨fun e _ => agree_refl _ e, id, id⟩
    · have hframe := keepsOutside_mono (exec_framed i _ t he) (opWrites_subset_hostWrites hi)
      have hfault := fun (f : StatusFlag) hf => exec_host_faultFlag (f := f) hf hi he
      exact ⟨hframe, hfault .mp (.inl rfl), hfault .pf (.inr rfl)⟩
  · rcases step_word_next hq h with hb | ⟨i, hi, he⟩
    · rw [hb]
      exact ⟨rfl, rfl, rfl, .inl rfl⟩
    · obtain ⟨hcrc, hlock, hhigh⟩ := not_mem_opWrites_event hi
      have hframe := exec_framed i _ t he
      have hbtnReq := exec_event_btnReq hi he
      exact ⟨hframe _ hcrc, hframe _ hlock, hframe _ hhigh, hbtnReq⟩

/-! ## Checking a received frame (45_host.md R243) -/

/-- The run that checks a frame compares the CRC of the bytes before its trailer with it. -/
theorem performAll_checkRequestOps (f : List Byte) (s : State) :
    performAll (checkRequestOps f) s = .next { s with
      block := { s.block with crc := crc16 (f.take (f.length - 2)) }
      report := some ⟨.accepted, some
        (if crc16 (f.take (f.length - 2)) = frameTrailer f then 0x0001 else 0x0000)⟩ } := by
  rw [checkRequestOps, performAll_crcFrameOps, performAll_cons_of_next (exec_crcCheck _ _),
    performAll]

/-- Settles O25: the run responds the comparison that `trailerMatches` states. -/
theorem checkingARequestRespondsItsVerdict : Obligations.CheckingARequestRespondsItsVerdict := by
  unfold Obligations.CheckingARequestRespondsItsVerdict
  intro f s
  have hrun := performAll_checkRequestOps f s
  refine ⟨fun (hmatch : crc16 _ = _) => ?_, fun (hmatch : ¬ crc16 _ = _) => ?_⟩
  · rw [if_pos hmatch] at hrun
    exact ⟨_, hrun, rfl⟩
  · rw [if_neg hmatch] at hrun
    exact ⟨_, hrun, rfl⟩

/-! ## The meanings (45_host.md R231 to R234, R236 to R238) -/

section
variable (s : State)

theorem exec_hostReadStatus : exec .hostReadStatus s = .next { s with
    block := { s.block with
      status := setStatusFlag .pf false (setStatusFlag .mp false s.block.status)
      unreadStatus := false }
    report := some ⟨.accepted, some s.block.status⟩ } := rfl

theorem exec_hostReadCmd : exec .hostReadCmd s =
    .next { s with report := some ⟨.accepted, some s.block.cmd⟩ } := rfl

theorem exec_hostWriteCmd (w : Word) : exec (.hostWriteCmd w) s = .next { s with
    block := { s.block with cmd := w }, report := some ⟨.accepted, some w⟩ } := rfl

theorem exec_hostSetLock (e : Bool) : exec (.hostSetLock e) s = .next { s with
    block := { s.block with snapshotLocked := e }
    report := some ⟨.accepted, some 0x0000⟩ } := rfl

theorem exec_hostClearUnreadSnap : exec .hostClearUnreadSnap s = .next { s with
    block := { s.block with unreadSnapshot := false }
    report := some ⟨.accepted, some 0x0000⟩ } := rfl

theorem exec_hostReadFlags : exec .hostReadFlags s =
    .next { s with report := some ⟨.accepted, some (flagsView s.block)⟩ } := rfl

theorem exec_hostReadDiag : exec .hostReadDiag s =
    .next { s with report := some ⟨.accepted, some (diagView s.block)⟩ } := rfl

end

/-- Settles O46: the row of the opcode map, the old value as the response, and the three flags clear
with the frame of the operation. -/
theorem readStatusRule : Obligations.ReadStatusRule := by
  unfold Obligations.ReadStatusRule
  refine ⟨rowEncodes .hostReadStatus, fun s => ?_⟩
  have hexec := exec_hostReadStatus s
  exact ⟨_, hexec, rfl, exec_hostReadStatus_faultFlag (.inl rfl) hexec,
    exec_hostReadStatus_faultFlag (.inr rfl) hexec, rfl, exec_framed .hostReadStatus s _ hexec⟩

/-- Settles O47: the row of the opcode map, and the meaning. -/
theorem readCommandRule : Obligations.ReadCommandRule := by
  unfold Obligations.ReadCommandRule
  exact ⟨rowEncodes .hostReadCmd, exec_hostReadCmd⟩

/-- Settles O48: the row of the opcode map, and the meaning. -/
theorem writeCommandRule : Obligations.WriteCommandRule := by
  unfold Obligations.WriteCommandRule
  exact ⟨rowEncodes .hostWriteCmd, fun w s => exec_hostWriteCmd s w⟩

/-- Settles O49: the row of the opcode map, and the meaning. -/
theorem setLockRule : Obligations.SetLockRule := by
  unfold Obligations.SetLockRule
  exact ⟨rowEncodes .hostSetLock, fun e s => exec_hostSetLock s e⟩

/-- Settles O51: the row of the opcode map, and the meaning. -/
theorem clearUnreadSnapshotRule : Obligations.ClearUnreadSnapshotRule := by
  unfold Obligations.ClearUnreadSnapshotRule
  exact ⟨rowEncodes .hostClearUnreadSnap, exec_hostClearUnreadSnap⟩

/-! ## Reading a page word (45_host.md R235) -/

theorem pageInRange_iff {c : Config} {p i : Byte} :
    pageInRange c p i = true ↔ 1 ≤ p.toNat ∧ p.toNat ≤ 5 ∧ i.toNat < c.pageWords := by
  simp only [pageInRange, Bool.and_eq_true, decide_eq_true_eq, and_assoc]
  rfl

/-- A read outside the page space takes the exception (30_encoding.md R95). -/
theorem exec_hostReadPage_outOfRange {p i : Byte} {s : State}
    (h : pageInRange s.cfg p i = false) :
    exec (.hostReadPage p i) s = .next { s with report := some ⟨.illegal .range, some 5⟩ } :=
  if_neg (Bool.eq_false_iff.1 h)

/-- The word of an operation that is not well formed fails the range check only, the last of
30_encoding.md R96. -/
theorem decode_encode_of_not_wf {c : Config} {i : Instr} (hi : i.wf c = false) :
    decode c i.op.agent.port (encode i) = .error .range := by
  rw [encode_eq_wordOf, decode_wordOf]
  simp [agent_port, operand_mustBeZero, instrOf_operand, hi]

/-- The word of `HOST_READ_PAGE p, i`, its two operand bytes in place (30_encoding.md R92). -/
theorem encode_hostReadPage (p i : Byte) :
    encode (.hostReadPage p i) =
      (0x54000000 : OpWord) ||| p.setWidth 32 <<< 8 ||| i.setWidth 32 := by
  have hopnd : (p.setWidth 16 <<< 8 ||| i.setWidth 16).setWidth 32 =
      p.setWidth 32 <<< 8 ||| i.setWidth 32 := by
    apply BitVec.eq_of_getLsbD_eq
    intro k hk
    by_cases h16 : k < 16
    · simp [hk, h16]
    · simp [hk, h16, BitVec.getLsbD_of_ge i k (by omega), BitVec.getLsbD_of_ge p (k - 8) (by omega)]
  rw [BitVec.or_assoc, ← hopnd, ← show Op.hostReadPage.matchBits = 0x54000000 from rfl]
  rfl

/-- Settles O50: the row of the opcode map; in range the page word; outside, the exception, and the
decoder's range check on the word. -/
theorem readPageRule : Obligations.ReadPageRule := by
  unfold Obligations.ReadPageRule
  refine ⟨rowEncodes .hostReadPage, fun p i s hp hp5 hi => ?_, fun p i s hout => ?_⟩
  · exact exec_hostReadPage_inRange (pageInRange_iff.2 ⟨hp, hp5, hi⟩)
  · have hrange : pageInRange s.cfg p i = false := by
      rw [Bool.eq_false_iff, Ne, pageInRange_iff]
      omega
    have hdecode := decode_encode_of_not_wf (i := .hostReadPage p i) hrange
    rw [encode_hostReadPage] at hdecode
    exact ⟨exec_hostReadPage_outOfRange hrange, hdecode⟩

/-! ## The read views (10_state.md R43, 45_host.md R237, R238) -/

theorem getLsbD_fieldAt (k : Nat) {w : Nat} (v : BitVec w) {j : Nat} (hj : j < 16) :
    (fieldAt k v).getLsbD j = (!decide (j < k) && v.getLsbD (j - k)) := by
  simp [fieldAt, hj]

theorem getLsbD_bitAt (k : Nat) (b : Bool) {j : Nat} (hj : j < 16) :
    (bitAt k b).getLsbD j = (decide (j = k) && b) := by
  rw [bitAt, getLsbD_fieldAt k _ hj, BitVec.getLsbD_ofBool, ← Bool.and_assoc, ← decide_not,
    ← Bool.decide_and]
  congr 2
  exact propext (by omega)

/-- Bit `j` of the `FLAGS` view, field by field (10_state.md R43). -/
theorem getLsbD_flagsView (b : Block) {j : Nat} (hj : j < 16) :
    (flagsView b).getLsbD j =
      (decide (j = 0) && b.capturePending || decide (j = 1) && b.snapshotLocked ||
        decide (j = 2) && b.unreadStatus || decide (j = 3) && b.unreadSnapshot ||
        decide (j = 4) && b.dataAvail || decide (j = 5) && b.capturing ||
        !decide (j < 6) && (bulkStBits b.bulkSt).getLsbD (j - 6) ||
        decide (j = 8) && b.settleArmed || decide (j = 9) && b.bulkWdtArmed ||
        decide (j = 10) && b.regWdtArmed || decide (j = 11) && b.stbyArmed ||
        !decide (j < 12) && b.mmCnt.getLsbD (j - 12) ||
        !decide (j < 15) && (halfBit b.bulkAct).getLsbD (j - 15)) := by
  simp only [flagsView, BitVec.getLsbD_or, getLsbD_bitAt _ _ hj, getLsbD_fieldAt _ _ hj]

theorem flagsView_bulkSt (b : Block) : (flagsView b).extractLsb' 6 2 = bulkStBits b.bulkSt := by
  apply BitVec.eq_of_getLsbD_eq
  intro i hi
  rw [BitVec.getLsbD_extractLsb', getLsbD_flagsView b (by omega)]
  interval_cases i <;> simp

theorem flagsView_mmCnt (b : Block) : (flagsView b).extractLsb' 12 3 = b.mmCnt := by
  apply BitVec.eq_of_getLsbD_eq
  intro i hi
  rw [BitVec.getLsbD_extractLsb', getLsbD_flagsView b (by omega)]
  interval_cases i <;> simp

theorem flagsView_bulkAct (b : Block) :
    (flagsView b).getLsbD 15 = (halfBit b.bulkAct).getLsbD 0 := by
  simp [getLsbD_flagsView, -BitVec.getLsbD_eq_getElem]

/-- Settles O52: the row of the opcode map, the fields of the capture state, the counter and the
active half, and every one-bit element at its bit of the view. -/
theorem readFlagsRule : Obligations.ReadFlagsRule := by
  unfold Obligations.ReadFlagsRule
  refine ⟨rowEncodes .hostReadFlags, fun s => ⟨_, exec_hostReadFlags s, ?_, ?_, ?_, ?_, ?_, ?_,
    (flagsView_bulkSt _).trans ?bulkSt, ?_, ?_, ?_, ?_, flagsView_mmCnt _,
    (flagsView_bulkAct _).trans ?bulkAct⟩⟩
  case bulkSt => cases s.block.bulkSt <;> rfl
  case bulkAct => cases s.block.bulkAct <;> rfl
  all_goals simp [getLsbD_flagsView, Block.dataAvail, -BitVec.getLsbD_eq_getElem]

/-- Bit `j` of the `DIAG` view, field by field (10_state.md R43). -/
theorem getLsbD_diagView (b : Block) {j : Nat} (hj : j < 16) :
    (diagView b).getLsbD j =
      (b.bulkPos.getLsbD j || !decide (j < 11) && b.lastLvl.getLsbD (j - 11)) := by
  simp only [diagView, BitVec.getLsbD_or, getLsbD_fieldAt _ _ hj, Nat.not_lt_zero,
    Nat.sub_zero, decide_false, Bool.not_false, Bool.true_and]

theorem diagView_bulkPos (b : Block) : (diagView b).extractLsb' 0 11 = b.bulkPos := by
  apply BitVec.eq_of_getLsbD_eq
  intro i hi
  rw [BitVec.getLsbD_extractLsb', Nat.zero_add, getLsbD_diagView b (by omega)]
  simp [hi]

theorem diagView_lastLvl (b : Block) : (diagView b).extractLsb' 11 4 = b.lastLvl := by
  apply BitVec.eq_of_getLsbD_eq
  intro i hi
  rw [BitVec.getLsbD_extractLsb', getLsbD_diagView b (by omega)]
  simp [hi]

theorem diagView_bit15 (b : Block) : (diagView b).getLsbD 15 = false := by
  rw [getLsbD_diagView b (by decide)]
  simp

/-- Settles O53: the row of the opcode map, and the two fields and the zero bit of the view. -/
theorem readDiagRule : Obligations.ReadDiagRule := by
  unfold Obligations.ReadDiagRule
  exact ⟨rowEncodes .hostReadDiag, fun s => ⟨_, exec_hostReadDiag s, diagView_bulkPos s.block,
    diagView_lastLvl s.block, diagView_bit15 s.block⟩⟩

end Sys2Proof.Machine
end

section
/-! PROOFS. Stops, enables and interleavings (60_exceptions.md R261 to R265): that no step stops the
machine, what an event does where it is enabled and where it is not, how `DATA_AVAIL` moves, and the two
orders of `PARSE` and the lock. -/

namespace Sys2Proof.Machine

/-! ## The one fault (60_exceptions.md R261, 10_state.md R37) -/

theorem exec_evBulkByte_outside {v : Byte} {s : State} (hx : s.block.bulkSt = .xfer)
    (hout : s.cfg.frameLen ≤ s.block.bulkPos.toNat) :
    exec (.evBulkByte v) s = .fault .rxIndexOutOfRange := by
  rw [exec, execEvBulkByte, if_neg (not_not.2 hx), if_pos hout]

/-- Of the operations only `EV_BULK_BYTE` can fault: in `XFER`, where the byte would be stored, at a
position outside the frame. -/
theorem exec_eq_fault_iff {i : Instr} {s : State} {f : Fault} :
    exec i s = .fault f ↔ f = .rxIndexOutOfRange ∧ (∃ v, i = .evBulkByte v) ∧
      s.block.bulkSt = .xfer ∧ s.cfg.frameLen ≤ s.block.bulkPos.toNat := by
  constructor
  · intro h
    rcases exec_ends i s with ⟨-, b, e⟩ | ⟨-, b, v, e⟩ | ⟨-, e⟩ | e | ⟨p, x, -, -, e⟩ |
      ⟨v, rfl, hout, -⟩
    case inr.inr.inr.inr.inr =>
      have hxfer : s.block.bulkSt = .xfer := by
        by_contra hx
        cases (exec_evBulkByte_dropped hx).symm.trans h
      exact ⟨rfl, ⟨v, rfl⟩, hxfer, hout⟩
    all_goals cases e.symm.trans h
  · rintro ⟨rfl, ⟨v, rfl⟩, hx, hout⟩
    exact exec_evBulkByte_outside hx hout

/-! ## No step stops the machine (60_exceptions.md R261) -/

/-- An operation without a transition is refused as not enabled, under its own name. -/
theorem exec_refused {i : Instr} {s : State} {r : Refusal} (h : exec i s = .refused r) :
    r = .notEnabled i.op := by
  rcases exec_ends i s with ⟨-, b, e⟩ | ⟨-, b, v, e⟩ | ⟨-, e⟩ | e | ⟨p, x, -, -, e⟩ |
    ⟨v, -, -, e⟩ <;> cases e.symm.trans h
  rfl

theorem performOp_of_notEnabled {i : Instr} {s : State} {o : Op}
    (h : exec i s = .refused (.notEnabled o)) :
    performOp i s = .next { s with report := some ⟨.notEnabled, none⟩ } := by
  rw [performOp, h, settleOutcome]

/-- The port goes on after every operation but the one that faults. -/
theorem performOp_answers_next {i : Instr} {s : State}
    (hpos : s.block.bulkPos.toNat < s.cfg.frameLen) : ∃ t, performOp i s = .next t := by
  cases h : exec i s with
  | next t => exact ⟨t, by rw [performOp, h, settleOutcome]⟩
  | fault f =>
    obtain ⟨-, -, -, hout⟩ := exec_eq_fault_iff.1 h
    exact absurd hpos hout.not_gt
  | refused r =>
    cases exec_refused h
    exact ⟨_, performOp_of_notEnabled h⟩

/-- While the position stays inside the frame, whatever has arrived gives a next state. -/
theorem step_answers_next {s : State} (hpos : s.block.bulkPos.toNat < s.cfg.frameLen) :
    ∃ t, step s = .next t := by
  rcases step_cases s with ⟨-, e⟩ | ⟨a, rest, -, e⟩ | ⟨p, w, rest, -, -, e⟩ |
    ⟨p, w, rest, code, -, -, -, e⟩ | ⟨p, w, rest, i, -, -, -, e⟩
  case inr.inr.inr.inr =>
    rw [e]
    exact performOp_answers_next hpos
  all_goals exact ⟨_, e⟩

/-- Settles O13: the invariant keeps the position inside the frame, and a fault needs one outside. -/
theorem noStepStopsTheMachine : Obligations.NoStepStopsTheMachine := by
  unfold Obligations.NoStepStopsTheMachine
  exact ⟨fun s hinv => step_answers_next hinv.block.pos_lt, fun i s f => exec_eq_fault_iff⟩

/-! ## The enable table (60_exceptions.md R263) -/

/-- No enable condition reads `UNREAD_STATUS`, all that the note of R35 writes. -/
@[simp] theorem opEnabled_noteStatusChange (a b : Block) (o : Op) :
    opEnabled (noteStatusChange a b) o = opEnabled b o := by
  cases o <;> rfl

/-- A byte that comes in `XFER` at a position inside the frame is accepted, the last one or not. -/
theorem exec_evBulkByte_inFrame {v : Byte} {s : State} (hx : s.block.bulkSt = .xfer)
    (hpos : s.block.bulkPos.toNat < s.cfg.frameLen) :
    ∃ b, exec (.evBulkByte v) s = s.accept b := by
  rw [exec, execEvBulkByte, if_neg (not_not.2 hx), if_neg hpos.not_ge]
  split <;> exact ⟨_, rfl⟩

/-- An enabled event is accepted, and its writes take the enable of a timer or the parser away. -/
theorem exec_event_enabled {i : Instr} {s : State} (hi : i.op.port = .event)
    (hpos : s.block.bulkPos.toNat < s.cfg.frameLen) (hen : opEnabled s.block i.op = true) :
    ∃ b, exec i s = s.accept b ∧ (opPhysical i.op = false → opEnabled b i.op = false) := by
  cases i
  case evFrameEdge => exact ⟨_, if_pos (of_decide_eq_true hen), nofun⟩
  case evBulkByte v =>
    obtain ⟨b, hexec⟩ := exec_evBulkByte_inFrame (of_decide_eq_true hen) hpos
    exact ⟨b, hexec, nofun⟩
  case evRegDone w => exact ⟨_, exec_evRegDone_capturing hen, nofun⟩
  case evPoll lv => exact ⟨_, rfl, nofun⟩
  case evSettleExpire | evBulkWdtExpire | evRegWdtExpire | evStbyExpire | parse =>
    exact ⟨_, if_pos hen, fun _ => rfl⟩
  all_goals cases hi

/-- An event that is not enabled is dropped if it is physical, and has no transition otherwise. -/
theorem exec_event_disabled {i : Instr} {s : State} (hi : i.op.port = .event)
    (hoff : opEnabled s.block i.op = false) :
    exec i s = if opPhysical i.op then s.drop else notEnabled i.op := by
  cases i
  case evFrameEdge => exact if_neg (of_decide_eq_false hoff)
  case evBulkByte v => exact if_pos (of_decide_eq_false hoff)
  case evPoll lv => cases hoff
  case evRegDone | evSettleExpire | evBulkWdtExpire | evRegWdtExpire | evStbyExpire | parse =>
    exact if_neg (Bool.eq_false_iff.1 hoff)
  all_goals cases hi

/-- Settles O56: the two ends of each event, by its enable condition. -/
theorem eventsRunExactlyWhenEnabled : Obligations.EventsRunExactlyWhenEnabled := by
  unfold Obligations.EventsRunExactlyWhenEnabled
  intro i s hagent hpos
  have hi : i.op.port = .event := port_eq_event_iff.2 hagent
  refine ⟨fun hen => ?_, fun hoff hphys => ?_, fun hoff hphys => ?_⟩
  · obtain ⟨b, hexec, hack⟩ := exec_event_enabled hi hpos hen
    exact ⟨_, hexec, rfl, fun hphys =>
      (opEnabled_noteStatusChange s.block b i.op).trans (hack hphys)⟩
  · rw [exec_event_disabled hi hoff, if_pos hphys, drop_eq]
  · rw [exec_event_disabled hi hoff, hphys]
    rfl

/-! ## `DATA_AVAIL` (60_exceptions.md R264) -/

theorem op_eq_parse {i : Instr} : i.op = .parse ↔ i = .parse := by
  cases i <;> simp [Instr.op]

theorem op_eq_hostClearUnreadSnap {i : Instr} :
    i.op = .hostClearUnreadSnap ↔ i = .hostClearUnreadSnap := by
  cases i <;> simp [Instr.op]

theorem unreadSnapshot_mem_opWrites {o : Op} (h : .unreadSnapshot ∈ opWrites o) :
    o = .parse ∨ o = .hostClearUnreadSnap := by
  cases o <;> simp_all [opWrites]

/-- `UNREAD_SNAPSHOT` is set by a parse and cleared by its acknowledgement, and no other operation
writes it. -/
theorem exec_changes_unreadSnapshot {i : Instr} {s t : State} (h : exec i s = .next t)
    (hne : s.block.unreadSnapshot ≠ t.block.unreadSnapshot) :
    (i = .parse ∧ t.block.unreadSnapshot = true) ∨
      (i = .hostClearUnreadSnap ∧ t.block.unreadSnapshot = false) := by
  have hw : .unreadSnapshot ∈ opWrites i.op := mem_opWrites_of_changed h hne
  rcases unreadSnapshot_mem_opWrites hw with ho | ho
  · cases op_eq_parse.1 ho
    obtain ⟨-, -, e⟩ := exec_parse_next h
    exact .inl ⟨rfl, by rw [e]⟩
  · cases op_eq_hostClearUnreadSnap.1 ho
    cases (exec_hostClearUnreadSnap s).symm.trans h
    exact .inr ⟨rfl, rfl⟩

/-- `UNREAD_STATUS` is set by an event that changes `STATUS` (10_state.md R35). -/
theorem exec_sets_unreadStatus {i : Instr} {s t : State} (h : exec i s = .next t)
    (hs : s.block.unreadStatus = false) (ht : t.block.unreadStatus = true) :
    i.op.port = .event ∧ t.block.status ≠ s.block.status := by
  cases hport : i.op.port with
  | host => cases hs.symm.trans (exec_host_unreadStatus hport h ht)
  | event =>
    have hnote : t.block.unreadStatus = _ := exec_event_notesStatus hport s t h
    exact ⟨rfl, by simpa [hs, ht] using hnote⟩

/-- `UNREAD_STATUS` is cleared by a status read alone. -/
theorem exec_clears_unreadStatus {i : Instr} {s t : State} (h : exec i s = .next t)
    (hs : s.block.unreadStatus = true) (ht : t.block.unreadStatus = false) :
    i = .hostReadStatus := by
  cases hport : i.op.port with
  | host =>
    have hne : s.block.unreadStatus ≠ t.block.unreadStatus := by simp [hs, ht]
    have hw : .unreadStatus ∈ opWrites i.op := mem_opWrites_of_changed h hne
    exact op_eq_hostReadStatus.1 (unreadStatus_mem_opWrites_host hport hw)
  | event =>
    have hnote : t.block.unreadStatus = _ := exec_event_notesStatus hport s t h
    simp [hs, ht] at hnote

theorem dataAvail_eq_true_iff {b : Block} :
    b.dataAvail = true ↔ b.unreadStatus = true ∨ b.unreadSnapshot = true :=
  Bool.or_eq_true_iff

theorem dataAvail_eq_false_iff {b : Block} :
    b.dataAvail = false ↔ b.unreadStatus = false ∧ b.unreadSnapshot = false :=
  Bool.or_eq_false_iff

theorem exec_raises_dataAvail {i : Instr} {s t : State} (h : exec i s = .next t)
    (hs : s.block.dataAvail = false) (ht : t.block.dataAvail = true) :
    i = .parse ∨ (i.op.port = .event ∧ t.block.status ≠ s.block.status) := by
  obtain ⟨hstatus, hsnap⟩ := dataAvail_eq_false_iff.1 hs
  rcases dataAvail_eq_true_iff.1 ht with htstatus | htsnap
  · exact .inr (exec_sets_unreadStatus h hstatus htstatus)
  · rcases exec_changes_unreadSnapshot h (by simp [hsnap, htsnap]) with ⟨hi, -⟩ | ⟨-, hclear⟩
    · exact .inl hi
    · cases hclear.symm.trans htsnap

theorem exec_lowers_dataAvail {i : Instr} {s t : State} (h : exec i s = .next t)
    (hs : s.block.dataAvail = true) (ht : t.block.dataAvail = false) :
    i = .hostReadStatus ∨ i = .hostClearUnreadSnap := by
  obtain ⟨hstatus, hsnap⟩ := dataAvail_eq_false_iff.1 ht
  rcases dataAvail_eq_true_iff.1 hs with hsstatus | hssnap
  · exact .inl (exec_clears_unreadStatus h hsstatus hstatus)
  · rcases exec_changes_unreadSnapshot h (by simp [hsnap, hssnap]) with ⟨-, hset⟩ | ⟨hi, -⟩
    · cases hset.symm.trans hsnap
    · exact .inr hi

/-- After an event that changed `STATUS`, and after a parse, there is something unread. -/
theorem exec_event_dataAvail {i : Instr} {s t : State} (hi : i.op.port = .event)
    (h : exec i s = .next t) (hnews : t.block.status ≠ s.block.status ∨ i = .parse) :
    t.block.dataAvail = true := by
  rw [dataAvail_eq_true_iff]
  rcases hnews with hstatus | rfl
  · have hnote : t.block.unreadStatus = _ := exec_event_notesStatus hi s t h
    exact .inl (by simp [hnote, hstatus])
  · obtain ⟨-, -, e⟩ := exec_parse_next h
    exact .inr (by rw [e])

/-- Settles O57: `DATA_AVAIL` moves with one of the two flags it is made of, and each flag is set and
cleared by its own operations. -/
theorem dataAvailRisesAndFalls : Obligations.DataAvailRisesAndFalls := by
  unfold Obligations.DataAvailRisesAndFalls
  refine ⟨fun _ => rfl, fun i s t h hs ht => ?_, fun i s t => exec_lowers_dataAvail,
    fun i s t hi h _ => exec_event_dataAvail (port_eq_event_iff.2 hi) h, fun s => ?_⟩
  · exact (exec_raises_dataAvail h hs ht).imp_right (And.imp_left port_eq_event_iff.1)
  · have hrun := (performAll_cons_of_next (exec_hostReadStatus s)).trans
      (performAll_cons_of_next (is := []) (exec_hostClearUnreadSnap _))
    exact ⟨_, hrun, rfl⟩

/-! ## `PARSE` against the lock (60_exceptions.md R265) -/

theorem performAll_cons_of_notEnabled {i : Instr} {is : List Instr} {s : State} {o : Op}
    (h : exec i s = .refused (.notEnabled o)) :
    performAll (i :: is) s = performAll is { s with report := some ⟨.notEnabled, none⟩ } := by
  rw [performAll, performOp_of_notEnabled h]

/-- Settles O45: before the lock the parse takes the frame and the lock keeps its pages; after the lock
the parse has no transition and the run goes on with the block as it was (log entry 3). -/
theorem orderDecidesParseAgainstLock : Obligations.OrderDecidesParseAgainstLock := by
  unfold Obligations.OrderDecidesParseAgainstLock
  intro s hpending hunlocked
  have hparse := exec_parse_enabled hpending hunlocked
  have hparseFirst := (performAll_cons_of_next hparse).trans
    (performAll_cons_of_next (is := []) (exec_hostSetLock _ true))
  have hlockFirst := (performAll_cons_of_next (exec_hostSetLock s true)).trans
    (performAll_cons_of_notEnabled (is := []) (exec_parse_notEnabled (.inr rfl)))
  exact ⟨⟨_, _, hparse, hparseFirst, rfl, rfl, rfl, rfl⟩, ⟨_, hlockFirst, rfl, hpending, rfl, rfl⟩⟩

end Sys2Proof.Machine
end

section
/-! PROOFS. Reset and the taking of one input (70_reset_and_hazards.md R290, R291; 20_memory.md R69): what
a reset edge and a lost word leave, how a step and the operation its word decodes to go together, and what
runs in the reset state. -/

namespace Sys2Proof.Machine

/-! ## Parameters (00_scope.md R5) -/

/-- Settles O59: the reset state holds `Config.standard`, whose values are in the ranges of R5. -/
theorem resetHasThePrintedParameters : Obligations.ResetHasThePrintedParameters := by
  unfold Obligations.ResetHasThePrintedParameters
  have hrange : Config.standard.wf := by decide
  exact ⟨rfl, rfl, hrange, rfl, rfl, rfl⟩

/-! ## One input (70_reset_and_hazards.md R290, 30_encoding.md R91) -/

section
variable {s : State} {p : Port} {w : OpWord} {rest : List Input}

theorem step_resetEdge {asserted : Bool} (hq : s.inputs = .reset asserted :: rest) :
    step s = State.resetEdge { s with inputs := rest } asserted :=
  step_cons hq

theorem step_lost (hq : s.inputs = .op p w :: rest) (hr : s.inReset = true) :
    step s = State.lose { s with inputs := rest } :=
  (step_cons hq).trans (if_pos hr)

/-- A step with a legal word at the head of the queue performs the operation the word decodes to. -/
theorem step_decoded {i : Instr} (hq : s.inputs = .op p w :: rest) (hr : s.inReset = false)
    (hd : decode s.cfg p w = .ok i) : step s = performOp i { s with inputs := rest } := by
  rw [step_cons hq]
  simp [takeInput, takeWord, hr, hd]

end

/-- Settles O2: an edge sets the block and the level it names, and under an asserted reset a word is taken
off the queue and nothing else. -/
theorem resetInputRestoresEveryElement : Obligations.ResetInputRestoresEveryElement := by
  unfold Obligations.ResetInputRestoresEveryElement
  exact ⟨fun s rest => step_resetEdge, fun s rest => step_resetEdge, fun s p w rest => step_lost⟩

theorem performOp_of_next {i : Instr} {s t : State} (h : exec i s = .next t) :
    performOp i s = .next t := by
  rw [performOp, h, settleOutcome]

theorem performOp_of_fault {i : Instr} {s : State} {f : Fault} (h : exec i s = .fault f) :
    performOp i s = .fault f := by
  rw [performOp, h, settleOutcome]

/-- Settles O9: the step performs the decoded operation, whose end stands unless it had no transition, and
a refusal is never `notModelled`. -/
theorem stepRunsTheDecodedOperation : Obligations.StepRunsTheDecodedOperation := by
  unfold Obligations.StepRunsTheDecodedOperation
  refine ⟨fun s p w rest i hq hr hd => ?_, fun s => step_nil⟩
  rw [step_decoded hq hr hd]
  refine ⟨fun t => performOp_of_next, fun f => performOp_of_fault, fun o => performOp_of_notEnabled,
    fun m h => ?_⟩
  cases exec_refused h

/-! ## The reset state (70_reset_and_hazards.md R291) -/

/-- The enables of R263 at reset. -/
theorem opEnabled_reset_iff {o : Op} :
    opEnabled Block.reset o = true ↔ o.agent = .host ∨ o = .evPoll := by
  cases o <;> decide

/-- In every state a well-formed host operation is accepted with a response. -/
theorem exec_host_responds {i : Instr} {s : State} (hi : i.op.port = .host)
    (hwf : i.wf s.cfg = true) : ∃ b v, exec i s = s.respond b v := by
  cases i
  case hostReadPage p x => exact ⟨_, _, exec_hostReadPage_inRange hwf⟩
  case evFrameEdge | evSettleExpire | evBulkByte | evBulkWdtExpire | evRegDone | evRegWdtExpire |
      evPoll | evStbyExpire | parse => cases hi
  all_goals exact ⟨_, _, rfl⟩

/-- After the ends of a poll capture runs exactly while a display is lit (43_detector.md R191). -/
theorem startOrStop_capturing (b : Block) : (startOrStop b).capturing = b.lit := by
  cases hlit : b.lit <;> cases hcap : b.capturing
  · rw [startOrStop_keeps (hlit.trans hcap.symm), hcap]
  · rw [startOrStop_stops hlit hcap, captureStop_capturing]
  · rw [startOrStop_starts hlit hcap, captureStart_capturing]
  · rw [startOrStop_keeps (hlit.trans hcap.symm), hcap]

theorem polled_capturing {lv : BitVec 4} {b : Block} :
    (b.polled lv).capturing = (b.polled lv).lit :=
  (startOrStop_capturing _).trans polled_lit.symm

/-! The first poll: from the reset value of `LAST_LVL`, no level high, the edges are the high levels. -/

@[simp] theorem reset_lastLvl : Block.reset.lastLvl = 0#4 := rfl

@[simp] theorem reset_flag (f : StatusFlag) : Block.reset.flag f = false := by
  cases f <;> rfl

@[simp] theorem standbyRises_zero (lv : BitVec 4) : standbyRises 0#4 lv = levelStandby lv := rfl

theorem polled_reset_flag (lv : BitVec 4) :
    (Block.reset.polled lv).flag .pwr = levelPower lv ∧
    (Block.reset.polled lv).flag .stby = levelStandby lv ∧
    (Block.reset.polled lv).flag .red = levelRed lv ∧
    (Block.reset.polled lv).flag .white = levelWhite lv := by
  refine ⟨?pwr, ?stby, ?red, ?white⟩
  all_goals rw [polled_flag (by decide) (by decide), sampleLevels_flag, reset_lastLvl]
  case stby => simp
  case pwr | red | white => simp [levelPower, levelRed, levelWhite]

theorem polled_reset_stbyArmed (lv : BitVec 4) :
    (Block.reset.polled lv).stbyArmed = levelStandby lv :=
  polled_stbyArmed.trans (standbyRises_zero lv)

/-- Settles O3: host operations always respond and a poll is always accepted; the other enables are off at
reset; the first poll latches the high levels, and capture follows the lit displays. -/
theorem afterResetOnlyHostAndPollRun : Obligations.AfterResetOnlyHostAndPollRun := by
  unfold Obligations.AfterResetOnlyHostAndPollRun
  refine fun c => ⟨fun i hwf hrun => ?runs, fun i hagent hpoll => ?rests, fun lv => ?poll, rfl,
    fun p x => read_nil (pageKey p x)⟩
  case runs =>
    rcases hrun with hagent | hpoll
    · obtain ⟨b, v, hexec⟩ := exec_host_responds (s := State.resetWith c)
        ((agent_port i.op).symm.trans (congrArg Agent.port hagent)) hwf
      exact ⟨_, _, hexec, rfl⟩
    · obtain ⟨lv, rfl⟩ := op_eq_evPoll.1 hpoll
      exact ⟨_, _, exec_evPoll lv _, rfl⟩
  case rests =>
    have hoff : opEnabled Block.reset i.op = false :=
      Bool.eq_false_iff.2 fun hen => (opEnabled_reset_iff.1 hen).elim hagent hpoll
    rw [exec_event_disabled (s := State.resetWith c) (port_eq_event_iff.2 hagent) hoff]
    cases opPhysical i.op
    · exact .inr rfl
    · exact .inl rfl
  case poll =>
    obtain ⟨hpwr, hstby, hred, hwhite⟩ := polled_reset_flag lv
    have hlit : (Block.reset.polled lv).lit = (levelRed lv || levelWhite lv) :=
      congrArg₂ or hred hwhite
    exact ⟨_, exec_evPoll lv _, hpwr, hstby, polled_reset_stbyArmed lv, hred, hwhite,
      polled_capturing.trans hlit⟩

end Sys2Proof.Machine
end
